-- ==== Sys2Proof/Word.lean ====
section
/-! DEFINITION. The word types of the machine: bytes, opcodes, register numbers, memory addresses and the program counter. -/

namespace Sys2Proof

/-- A memory cell and a general register are 8 bits wide (00_scope.md R7; 10_state.md R21, R31). -/
abbrev Byte := BitVec 8

/-- An instruction is one 16-bit word (30_encoding.md R70). -/
abbrev Opcode := BitVec 16

/-- The number of a general register, as the X and Y fields hold it (30_encoding.md R71). -/
abbrev RegNum := BitVec 4

/-- A 12-bit address: the NNN field and the index register I (30_encoding.md R71; 10_state.md R24). -/
abbrev Addr := BitVec 12

/-- The program counter's storage is 16 bits (10_state.md R25). -/
abbrev PcWord := BitVec 16

end Sys2Proof
end

