-- ==== Sys2Proof/Syntax.lean ====
section
/-! DEFINITION. The instructions: one constructor per row of the opcode map (30_encoding.md R75), named by the row's canonical
name, the hexadecimal pattern, with `op` before it. Operands are the fields of R71 in the order the pattern writes them. -/

namespace Sys2Proof

/-- The 33 instructions of the machine (30_encoding.md R75). -/
inductive Instr where
  /-- 00E0, CLS: clear the frame buffer (43_display.md R160). -/
  | op00E0
  /-- 00EE, RET: return from subroutine (40_control_flow.md R102). -/
  | op00EE
  /-- 1NNN, JP nnn: jump (40_control_flow.md R100). -/
  | op1NNN (nnn : Addr)
  /-- 2NNN, CALL nnn: call subroutine (40_control_flow.md R101). -/
  | op2NNN (nnn : Addr)
  /-- 3XNN, SE Vx, nn: skip if register equals immediate (40_control_flow.md R104). -/
  | op3XNN (x : RegNum) (nn : Byte)
  /-- 4XNN, SNE Vx, nn: skip if register differs from immediate (40_control_flow.md R105). -/
  | op4XNN (x : RegNum) (nn : Byte)
  /-- 5XY0, SE Vx, Vy: skip if registers equal (40_control_flow.md R106). -/
  | op5XY0 (x y : RegNum)
  /-- 6XNN, LD Vx, nn: load immediate (41_load_alu.md R120). -/
  | op6XNN (x : RegNum) (nn : Byte)
  /-- 7XNN, ADD Vx, nn: add immediate, no flag (41_load_alu.md R121). -/
  | op7XNN (x : RegNum) (nn : Byte)
  /-- 8XY0, LD Vx, Vy: copy (41_load_alu.md R122). -/
  | op8XY0 (x y : RegNum)
  /-- 8XY1, OR Vx, Vy: bitwise OR (41_load_alu.md R123). -/
  | op8XY1 (x y : RegNum)
  /-- 8XY2, AND Vx, Vy: bitwise AND (41_load_alu.md R124). -/
  | op8XY2 (x y : RegNum)
  /-- 8XY3, XOR Vx, Vy: bitwise exclusive OR (41_load_alu.md R125). -/
  | op8XY3 (x y : RegNum)
  /-- 8XY4, ADD Vx, Vy: add with carry out (41_load_alu.md R126). -/
  | op8XY4 (x y : RegNum)
  /-- 8XY5, SUB Vx, Vy: subtract with flag (41_load_alu.md R127). -/
  | op8XY5 (x y : RegNum)
  /-- 8XY6, SHR Vx: shift right by one; the Y field is kept but ignored (41_load_alu.md R128; 30_encoding.md R73). -/
  | op8XY6 (x y : RegNum)
  /-- 8XYE, SHL Vx: shift left by one; the Y field is kept but ignored (41_load_alu.md R129; 30_encoding.md R73). -/
  | op8XYE (x y : RegNum)
  /-- 9XY0, SNE Vx, Vy: skip if registers differ (40_control_flow.md R107). -/
  | op9XY0 (x y : RegNum)
  /-- ANNN, LD I, nnn: load index (42_index_memory.md R140). -/
  | opANNN (nnn : Addr)
  /-- BNNN, JP V0, nnn: jump with offset (40_control_flow.md R103). -/
  | opBNNN (nnn : Addr)
  /-- CXNN, RND Vx, nn: random byte under mask (41_load_alu.md R130). -/
  | opCXNN (x : RegNum) (nn : Byte)
  /-- DXYN, DRW Vx, Vy, n: draw a sprite of n rows (43_display.md R161). -/
  | opDXYN (x y : RegNum) (n : BitVec 4)
  /-- EX9E, SKP Vx: skip if key down (44_keypad_timers.md R170). -/
  | opEX9E (x : RegNum)
  /-- EXA1, SKNP Vx: skip if key up (44_keypad_timers.md R171). -/
  | opEXA1 (x : RegNum)
  /-- FX07, LD Vx, DT: read the delay timer (44_keypad_timers.md R173). -/
  | opFX07 (x : RegNum)
  /-- FX0A, LD Vx, K: wait for a key transition (44_keypad_timers.md R172). -/
  | opFX0A (x : RegNum)
  /-- FX15, LD DT, Vx: set the delay timer (44_keypad_timers.md R174). -/
  | opFX15 (x : RegNum)
  /-- FX18, LD ST, Vx: set the sound timer (44_keypad_timers.md R175). -/
  | opFX18 (x : RegNum)
  /-- FX1E, ADD I, Vx: add register to index (42_index_memory.md R141). -/
  | opFX1E (x : RegNum)
  /-- FX29, LD F, Vx: point I at a font glyph (42_index_memory.md R142). -/
  | opFX29 (x : RegNum)
  /-- FX33, LD B, Vx: store decimal digits (42_index_memory.md R143). -/
  | opFX33 (x : RegNum)
  /-- FX55, LD [I], Vx: store registers V0 to VX (42_index_memory.md R144). -/
  | opFX55 (x : RegNum)
  /-- FX65, LD Vx, [I]: load registers V0 to VX (42_index_memory.md R145). -/
  | opFX65 (x : RegNum)
  deriving DecidableEq, Repr

end Sys2Proof
end

