-- ==== Sys2Proof/WellFormed.lean ====
section
/-! DEFINITION. What a well-formed opcode and a well-formed instruction are: the opcode map as its 33 mask and match rows
(30_encoding.md R75), the words it supports (R74, R80), and the check on an instruction. -/

namespace Sys2Proof

/-- One row of the opcode map: a word belongs to it when `word AND mask = value` (30_encoding.md R74, R75). -/
structure OpcodeRow where
  name : String
  mask : Opcode
  value : Opcode
  deriving DecidableEq, Repr

/-- `(w AND mask) = match` (30_encoding.md R74). -/
def OpcodeRow.covers (r : OpcodeRow) (w : Opcode) : Bool := w &&& r.mask == r.value

/-- The row of the opcode map each instruction stands in (30_encoding.md R75: name, mask, match). -/
def Instr.row : Instr → OpcodeRow
  | .op00E0 => ⟨"00E0", 0xFFFF, 0x00E0⟩
  | .op00EE => ⟨"00EE", 0xFFFF, 0x00EE⟩
  | .op1NNN _ => ⟨"1NNN", 0xF000, 0x1000⟩
  | .op2NNN _ => ⟨"2NNN", 0xF000, 0x2000⟩
  | .op3XNN _ _ => ⟨"3XNN", 0xF000, 0x3000⟩
  | .op4XNN _ _ => ⟨"4XNN", 0xF000, 0x4000⟩
  | .op5XY0 _ _ => ⟨"5XY0", 0xF00F, 0x5000⟩
  | .op6XNN _ _ => ⟨"6XNN", 0xF000, 0x6000⟩
  | .op7XNN _ _ => ⟨"7XNN", 0xF000, 0x7000⟩
  | .op8XY0 _ _ => ⟨"8XY0", 0xF00F, 0x8000⟩
  | .op8XY1 _ _ => ⟨"8XY1", 0xF00F, 0x8001⟩
  | .op8XY2 _ _ => ⟨"8XY2", 0xF00F, 0x8002⟩
  | .op8XY3 _ _ => ⟨"8XY3", 0xF00F, 0x8003⟩
  | .op8XY4 _ _ => ⟨"8XY4", 0xF00F, 0x8004⟩
  | .op8XY5 _ _ => ⟨"8XY5", 0xF00F, 0x8005⟩
  | .op8XY6 _ _ => ⟨"8XY6", 0xF00F, 0x8006⟩
  | .op8XYE _ _ => ⟨"8XYE", 0xF00F, 0x800E⟩
  | .op9XY0 _ _ => ⟨"9XY0", 0xF00F, 0x9000⟩
  | .opANNN _ => ⟨"ANNN", 0xF000, 0xA000⟩
  | .opBNNN _ => ⟨"BNNN", 0xF000, 0xB000⟩
  | .opCXNN _ _ => ⟨"CXNN", 0xF000, 0xC000⟩
  | .opDXYN _ _ _ => ⟨"DXYN", 0xF000, 0xD000⟩
  | .opEX9E _ => ⟨"EX9E", 0xF0FF, 0xE09E⟩
  | .opEXA1 _ => ⟨"EXA1", 0xF0FF, 0xE0A1⟩
  | .opFX07 _ => ⟨"FX07", 0xF0FF, 0xF007⟩
  | .opFX0A _ => ⟨"FX0A", 0xF0FF, 0xF00A⟩
  | .opFX15 _ => ⟨"FX15", 0xF0FF, 0xF015⟩
  | .opFX18 _ => ⟨"FX18", 0xF0FF, 0xF018⟩
  | .opFX1E _ => ⟨"FX1E", 0xF0FF, 0xF01E⟩
  | .opFX29 _ => ⟨"FX29", 0xF0FF, 0xF029⟩
  | .opFX33 _ => ⟨"FX33", 0xF0FF, 0xF033⟩
  | .opFX55 _ => ⟨"FX55", 0xF0FF, 0xF055⟩
  | .opFX65 _ => ⟨"FX65", 0xF0FF, 0xF065⟩

/-- The opcode map, in the spec's order (30_encoding.md R75): the rows of `Instr.row`, each once. -/
def opcodeMap : List OpcodeRow :=
  [Instr.op00E0, .op00EE, .op1NNN 0, .op2NNN 0, .op3XNN 0 0, .op4XNN 0 0, .op5XY0 0 0, .op6XNN 0 0, .op7XNN 0 0,
    .op8XY0 0 0, .op8XY1 0 0].map Instr.row ++
  [Instr.op8XY2 0 0, .op8XY3 0 0, .op8XY4 0 0, .op8XY5 0 0, .op8XY6 0 0, .op8XYE 0 0, .op9XY0 0 0, .opANNN 0, .opBNNN 0,
    .opCXNN 0 0, .opDXYN 0 0 0].map Instr.row ++
  [Instr.opEX9E 0, .opEXA1 0, .opFX07 0, .opFX0A 0, .opFX15 0, .opFX18 0, .opFX1E 0, .opFX29 0, .opFX33 0, .opFX55 0,
    .opFX65 0].map Instr.row

/-- A word is supported when some row of the opcode map covers it; every other word is unsupported (30_encoding.md R74, R80). -/
def supported (w : Opcode) : Bool := opcodeMap.any (·.covers w)

/-- Every value of Instr is well formed: each field's width (30_encoding.md R71) is in its type, and the map excludes no
combination of operand values (R75), the ignored Y of 8XY6 and 8XYE included (R73, R85). One arm per constructor, so that a
new instruction is looked at here. -/
def Instr.wellFormed : Instr → Bool
  | .op00E0 | .op00EE => true
  | .op1NNN _ | .op2NNN _ | .opANNN _ | .opBNNN _ => true
  | .op3XNN _ _ | .op4XNN _ _ | .op6XNN _ _ | .op7XNN _ _ | .opCXNN _ _ => true
  | .op5XY0 _ _ | .op9XY0 _ _ => true
  | .op8XY0 _ _ | .op8XY1 _ _ | .op8XY2 _ _ | .op8XY3 _ _ | .op8XY4 _ _ | .op8XY5 _ _ | .op8XY6 _ _ | .op8XYE _ _ => true
  | .opDXYN _ _ _ => true
  | .opEX9E _ | .opEXA1 _ => true
  | .opFX07 _ | .opFX0A _ | .opFX15 _ | .opFX18 _ | .opFX1E _ | .opFX29 _ | .opFX33 _ | .opFX55 _ | .opFX65 _ => true

end Sys2Proof
end

