-- ==== Sys2Proof/Decode.lean ====
section
/-! DEFINITION. The decoder and the encoder (30_encoding.md). Decoding is a total function of any bytes and rejects by name.
`decodeWord` is the source's two-level dispatch (R74, R76): the top nibble selects the family, and families 0x0, 0x5, 0x8,
0x9, 0xE and 0xF look at the low nibble or the low byte as well (R83 for 0x5 and 0x9; 90_conflicts.md C1). -/

namespace Sys2Proof

/-- Why a decode gives no instruction. -/
inductive DecodeError where
  /-- Fewer than the two bytes of an instruction are there. -/
  | truncated
  /-- The word matches no row of the opcode map (30_encoding.md R80). -/
  | unsupported (w : Opcode)
  deriving DecidableEq, Repr

/-- OP = bits 15 to 12 (30_encoding.md R71). -/
def fieldOp (w : Opcode) : BitVec 4 := w.extractLsb' 12 4
/-- X = bits 11 to 8 (30_encoding.md R71). -/
def fieldX (w : Opcode) : RegNum := w.extractLsb' 8 4
/-- Y = bits 7 to 4 (30_encoding.md R71). -/
def fieldY (w : Opcode) : RegNum := w.extractLsb' 4 4
/-- N = bits 3 to 0 (30_encoding.md R71). -/
def fieldN (w : Opcode) : BitVec 4 := w.extractLsb' 0 4
/-- NN = bits 7 to 0 (30_encoding.md R71). -/
def fieldNN (w : Opcode) : Byte := w.extractLsb' 0 8
/-- NNN = bits 11 to 0 (30_encoding.md R71). -/
def fieldNNN (w : Opcode) : Addr := w.extractLsb' 0 12

/-- Family 8, selected by the low nibble (30_encoding.md R76, R82). -/
def decodeFamily8 (w : Opcode) : Option Instr :=
  match (fieldN w).toNat with
  | 0x0 => some (.op8XY0 (fieldX w) (fieldY w))
  | 0x1 => some (.op8XY1 (fieldX w) (fieldY w))
  | 0x2 => some (.op8XY2 (fieldX w) (fieldY w))
  | 0x3 => some (.op8XY3 (fieldX w) (fieldY w))
  | 0x4 => some (.op8XY4 (fieldX w) (fieldY w))
  | 0x5 => some (.op8XY5 (fieldX w) (fieldY w))
  | 0x6 => some (.op8XY6 (fieldX w) (fieldY w))
  | 0xE => some (.op8XYE (fieldX w) (fieldY w))
  | _ => none

/-- Family F, selected by the low byte (30_encoding.md R76). -/
def decodeFamilyF (w : Opcode) : Option Instr :=
  if fieldNN w = 0x07 then some (.opFX07 (fieldX w))
  else if fieldNN w = 0x0A then some (.opFX0A (fieldX w))
  else if fieldNN w = 0x15 then some (.opFX15 (fieldX w))
  else if fieldNN w = 0x18 then some (.opFX18 (fieldX w))
  else if fieldNN w = 0x1E then some (.opFX1E (fieldX w))
  else if fieldNN w = 0x29 then some (.opFX29 (fieldX w))
  else if fieldNN w = 0x33 then some (.opFX33 (fieldX w))
  else if fieldNN w = 0x55 then some (.opFX55 (fieldX w))
  else if fieldNN w = 0x65 then some (.opFX65 (fieldX w))
  else none

/-- The instruction a 16-bit word stands for, none where the word is unsupported (30_encoding.md R74, R75, R76, R80). -/
def decodeWord (w : Opcode) : Option Instr :=
  match (fieldOp w).toNat with
  | 0x0 => if w = 0x00E0 then some .op00E0 else if w = 0x00EE then some .op00EE else none
  | 0x1 => some (.op1NNN (fieldNNN w))
  | 0x2 => some (.op2NNN (fieldNNN w))
  | 0x3 => some (.op3XNN (fieldX w) (fieldNN w))
  | 0x4 => some (.op4XNN (fieldX w) (fieldNN w))
  | 0x5 => if fieldN w = 0 then some (.op5XY0 (fieldX w) (fieldY w)) else none
  | 0x6 => some (.op6XNN (fieldX w) (fieldNN w))
  | 0x7 => some (.op7XNN (fieldX w) (fieldNN w))
  | 0x8 => decodeFamily8 w
  | 0x9 => if fieldN w = 0 then some (.op9XY0 (fieldX w) (fieldY w)) else none
  | 0xA => some (.opANNN (fieldNNN w))
  | 0xB => some (.opBNNN (fieldNNN w))
  | 0xC => some (.opCXNN (fieldX w) (fieldNN w))
  | 0xD => some (.opDXYN (fieldX w) (fieldY w) (fieldN w))
  | 0xE =>
    if fieldNN w = 0x9E then some (.opEX9E (fieldX w))
    else if fieldNN w = 0xA1 then some (.opEXA1 (fieldX w))
    else none
  | _ => decodeFamilyF w

/-- Two bytes as one word, the byte at the lower address in bits 15 to 8 (20_memory.md R51; 00_scope.md R13). -/
def wordOfBytes (hi lo : Byte) : Opcode := hi ++ lo

/-- The byte of an opcode that lies at the lower address: bits 15 to 8 (20_memory.md R51). -/
def highByte (w : Opcode) : Byte := w.extractLsb' 8 8

/-- The byte of an opcode that lies at the higher address: bits 7 to 0 (20_memory.md R51). -/
def lowByte (w : Opcode) : Byte := w.extractLsb' 0 8

/-- Decode the instruction at the head of a list of bytes, and give the bytes after it (30_encoding.md R70, R74). -/
def decode : List Byte → Except DecodeError (Instr × List Byte)
  | hi :: lo :: rest =>
    match decodeWord (wordOfBytes hi lo) with
    | some i => .ok (i, rest)
    | none => .error (.unsupported (wordOfBytes hi lo))
  | _ => .error .truncated

/-- Format X: OP, X, and the low byte fixed (30_encoding.md R72). -/
def wordX (op : BitVec 4) (x : RegNum) (sub : Byte) : Opcode := op ++ x ++ sub
/-- Format XY or XYN: OP, X, Y and the low nibble (30_encoding.md R72). -/
def wordXYN (op : BitVec 4) (x y : RegNum) (n : BitVec 4) : Opcode := op ++ x ++ y ++ n
/-- Format NNN: OP and the 12-bit immediate (30_encoding.md R72). -/
def wordNNN (op : BitVec 4) (nnn : Addr) : Opcode := op ++ nnn

/-- The word of an instruction, written from the patterns of the opcode map (30_encoding.md R71, R72, R75). -/
def encode : Instr → Opcode
  | .op00E0 => 0x00E0
  | .op00EE => 0x00EE
  | .op1NNN nnn => wordNNN 0x1 nnn
  | .op2NNN nnn => wordNNN 0x2 nnn
  | .op3XNN x nn => wordX 0x3 x nn
  | .op4XNN x nn => wordX 0x4 x nn
  | .op5XY0 x y => wordXYN 0x5 x y 0x0
  | .op6XNN x nn => wordX 0x6 x nn
  | .op7XNN x nn => wordX 0x7 x nn
  | .op8XY0 x y => wordXYN 0x8 x y 0x0
  | .op8XY1 x y => wordXYN 0x8 x y 0x1
  | .op8XY2 x y => wordXYN 0x8 x y 0x2
  | .op8XY3 x y => wordXYN 0x8 x y 0x3
  | .op8XY4 x y => wordXYN 0x8 x y 0x4
  | .op8XY5 x y => wordXYN 0x8 x y 0x5
  | .op8XY6 x y => wordXYN 0x8 x y 0x6
  | .op8XYE x y => wordXYN 0x8 x y 0xE
  | .op9XY0 x y => wordXYN 0x9 x y 0x0
  | .opANNN nnn => wordNNN 0xA nnn
  | .opBNNN nnn => wordNNN 0xB nnn
  | .opCXNN x nn => wordX 0xC x nn
  | .opDXYN x y n => wordXYN 0xD x y n
  | .opEX9E x => wordX 0xE x 0x9E
  | .opEXA1 x => wordX 0xE x 0xA1
  | .opFX07 x => wordX 0xF x 0x07
  | .opFX0A x => wordX 0xF x 0x0A
  | .opFX15 x => wordX 0xF x 0x15
  | .opFX18 x => wordX 0xF x 0x18
  | .opFX1E x => wordX 0xF x 0x1E
  | .opFX29 x => wordX 0xF x 0x29
  | .opFX33 x => wordX 0xF x 0x33
  | .opFX55 x => wordX 0xF x 0x55
  | .opFX65 x => wordX 0xF x 0x65

/-- The two bytes of an instruction as memory holds them, lower address first (20_memory.md R51). -/
def encodeBytes (i : Instr) : List Byte := [highByte (encode i), lowByte (encode i)]

/-- The word whose bits the opcode table numbers: bits above `nbits` are 0. -/
def tableWord (nbits w : Nat) : Opcode := BitVec.ofNat 16 (w % 2 ^ nbits)

/-- What the decoder reads from an instruction whose bits, numbered as spec/opcode_table.json numbers them, are `w`: its
bytes are laid out as memory holds them, the most significant first (20_memory.md R51), and given to `decode`. -/
def decodeTableWord (nbits w : Nat) : Option Instr :=
  match decode [highByte (tableWord nbits w), lowByte (tableWord nbits w)] with
  | .ok (i, _) => some i
  | .error _ => none

end Sys2Proof
end

