-- ==== Sys2Proof/Machine/Flags.lean ====
section
/-! DEFINITION. The flag computations: every value that an instruction writes to VF as a flag (10_state.md R23). The machine
has no other flag and no status register. -/

namespace Sys2Proof.Machine

/-- A flag is written to VF as exactly 0 or 1, the upper 7 bits zero (10_state.md R22). -/
def flagByte (b : Bool) : Byte := if b then 1 else 0

/-- 8XY4: 1 exactly when the 9-bit sum is above 255 (41_load_alu.md R126, R132). -/
def carryFlag (a b : Byte) : Byte := flagByte (255 < a.toNat + b.toNat)

/-- 8XY5: 1 exactly when V[X] > V[Y] strictly, 0 when they are equal (41_load_alu.md R127, R132; 90_conflicts.md C2;
DEDUCED by the spec, log entry 12). -/
def noBorrowFlag (a b : Byte) : Byte := flagByte (b.toNat < a.toNat)

/-- 8XY6: bit 0 of V[X] before the shift (41_load_alu.md R128). -/
def shiftedOutRight (a : Byte) : Byte := flagByte (a.getLsbD 0)

/-- 8XYE: bit 7 of V[X] before the shift (41_load_alu.md R129). -/
def shiftedOutLeft (a : Byte) : Byte := flagByte (a.getLsbD 7)

/-- DXYN: 1 exactly when a drawn pixel was already 1 (43_display.md R161). -/
def collisionFlag (hit : Bool) : Byte := flagByte hit

end Sys2Proof.Machine
end

