-- ==== Sys2Proof/Config.lean ====
section
/-! DEFINITION. The fixed parameters of the hardware (00_scope.md R7) and its one free value, the random byte (R8).
The font table FONT, the other open parameter, is an argument of the host's operations (Machine/HostOps.lean); its type is
here and its default in Machine/Font.lean. -/

namespace Sys2Proof

/-- MEM_SIZE: memory has 4096 bytes, addresses 0x000 to 0xFFF (00_scope.md R7). -/
abbrev Config.memSize : Nat := 4096

/-- STACK_DEPTH: the call stack holds 16 entries (00_scope.md R7). -/
abbrev Config.stackDepth : Nat := 16

/-- FONT_BASE: the font table starts at 0x050 (00_scope.md R7). -/
abbrev Config.fontBase : Nat := 0x050

/-- The font table is 16 glyphs of 5 bytes (00_scope.md R7, R8). -/
abbrev Config.fontSize : Nat := 80

/-- The type of the open parameter FONT: 80 bytes, FONT[g*5 + r] being row r of glyph g (00_scope.md R8). -/
abbrev FontTable := Vector Byte 80

/-- PROG_BASE: programs are loaded, and execution starts, at 0x200 (00_scope.md R7; 10_state.md R40). -/
abbrev Config.progBase : Nat := 0x200

/-- PROG_MAX: the largest program image, 0xE00 bytes (00_scope.md R7). -/
abbrev Config.progMax : Nat := 0xE00

/-- FB_W: the frame buffer has 64 columns (00_scope.md R7). -/
abbrev Config.fbWidth : Nat := 64

/-- FB_H: the frame buffer has 32 rows (00_scope.md R7). -/
abbrev Config.fbHeight : Nat := 32

/-- FREE VALUE, DESIGN CHOICE (log entry 2), safe: the byte that the n-th execution of CXNN draws. The spec bounds it by no
law (41_load_alu.md R130; 92_eei_decisions.md D12; 93_implementation_defined.md U1), so it has no body here and no proof can
see a value of it. -/
opaque Config.randomByte : Nat → Byte

end Sys2Proof
end

