-- ==== Sys2Proof/Machine/Font.lean ====
section
/-! DEFINITION. The default of the FONT parameter (10_state.md R43) and what an unlisted address of memory reads as (R40). -/

namespace Sys2Proof.Machine

/-- The bytes of the default FONT, row r of glyph g at index 5*g + r (00_scope.md R8; 10_state.md R43). -/
def defaultFontBytes : List Byte :=
  [0xF0, 0x90, 0x90, 0x90, 0xF0] ++ [0x20, 0x60, 0x20, 0x20, 0x70] ++
  [0xF0, 0x10, 0xF0, 0x80, 0xF0] ++ [0xF0, 0x10, 0xF0, 0x10, 0xF0] ++
  [0x90, 0x90, 0xF0, 0x10, 0x10] ++ [0xF0, 0x80, 0xF0, 0x10, 0xF0] ++
  [0xF0, 0x80, 0xF0, 0x90, 0xF0] ++ [0xF0, 0x10, 0x20, 0x40, 0x40] ++
  [0xF0, 0x90, 0xF0, 0x90, 0xF0] ++ [0xF0, 0x90, 0xF0, 0x10, 0xF0] ++
  [0xF0, 0x90, 0xF0, 0x90, 0x90] ++ [0xE0, 0x90, 0xE0, 0x90, 0xE0] ++
  [0xF0, 0x80, 0x80, 0x80, 0xF0] ++ [0xE0, 0x90, 0x90, 0x90, 0xE0] ++
  [0xF0, 0x80, 0xF0, 0x80, 0xF0] ++ [0xF0, 0x80, 0xF0, 0x80, 0x80]

/-- The default of the parameter FONT (10_state.md R43). PRESUMED (log entry 1), unsafe for a claim that takes it for the
machine's table: the spec marks the bytes as general knowledge. The machine itself takes any table: see `State.resetWith`. -/
def defaultFont : FontTable := ⟨defaultFontBytes.toArray, rfl⟩

/-- What an address that memory does not list reads as: its reset contents under the default FONT (10_state.md R40). This is how
memory is written down, and no more: a reset with another table lists the bytes in which it differs (log entry 1). -/
def unlistedByte (a : Nat) : Byte :=
  if Config.fontBase ≤ a ∧ a < Config.fontBase + Config.fontSize then defaultFontBytes.getD (a - Config.fontBase) 0 else 0

end Sys2Proof.Machine
end

