-- ==== Sys2Proof/Machine/State.lean ====
section
/-! DEFINITION. The machine's state as plain data (10_state.md R20), its state after reset (R40), and the closed lists of
faults (60_exceptions.md R200) and refusals. -/

namespace Sys2Proof.Machine

/-- Main memory (10_state.md R31) as a list of address and byte pairs in one canonical form: addresses strictly rising, each
below 4096, and no entry equal to what an unlisted address reads as, which is the reset contents under the
default FONT (`unlistedByte`).
`Memory.wf` in Ops.lean states the form. -/
abbrev Memory := List Host.Cell

/-- The frame buffer's 32 rows of 64 pixels each (10_state.md R33), 2048 bits in all (log entry 24). -/
abbrev FrameBuffer := Vector (BitVec 64) 32

/-- The complete state of the machine (10_state.md R20), and one field of the model's own, `draws`. -/
structure State where
  /-- MEM: 4096 bytes (10_state.md R31). -/
  mem : Memory
  /-- V0 to VF, V[15] being VF (10_state.md R21, R22). -/
  v : Vector Byte 16
  /-- I, the index register, 12 bits (10_state.md R24). -/
  i : Addr
  /-- PC, 16 bits of storage, never reduced modulo 4096 (10_state.md R25). -/
  pc : PcWord
  /-- STACK, oldest entry first; SP is its length (10_state.md R27). -/
  stack : List PcWord
  /-- DT, the delay timer (10_state.md R28). -/
  dt : Byte
  /-- ST, the sound timer (10_state.md R28). -/
  st : Byte
  /-- KEY: bit k is 1 when key k is down (10_state.md R29). -/
  key : BitVec 16
  /-- FB: bit x of row y is the pixel FB[y*64 + x], column x and row y (10_state.md R33); read through `State.pixel`. -/
  fb : FrameBuffer
  /-- REDRAW (10_state.md R34). -/
  redraw : Bool
  /-- WAIT: an FX0A is suspended (10_state.md R35). -/
  wait : Bool
  /-- KLATCH: KEY as it stood when the current wait began (10_state.md R35). -/
  klatch : BitVec 16
  /-- NOT THE SPEC'S, DESIGN CHOICE (log entry 3): how many random bytes have been drawn, so that each CXNN gets a fresh free
  value `Config.randomByte draws`. -/
  draws : Nat
  deriving DecidableEq, Repr

/-- Why an OutOfBounds was raised (60_exceptions.md R203). -/
inductive BoundsCause where
  /-- PC + 1 >= 4096 at the start of a step. -/
  | fetch
  /-- An effective address of a read is above 0xFFF. -/
  | memRead
  /-- An effective address of a write is above 0xFFF. -/
  | memWrite
  /-- A key index is above 15. -/
  | keyIndex
  deriving DecidableEq, Repr

/-- The faults the core can report (60_exceptions.md R200), each with what it records. A fault is the spec's own outcome of an
operation that changes nothing (R205). CorruptState (code 6) is the persistence codec's and never the core's (R200, R229). -/
inductive Fault where
  /-- Raised by the fetch of any step with PC + 1 >= 4096 (the opcode field is then 0, R228), by DXYN and FX65 (memRead), by
  FX33 and FX55 (memWrite), by EX9E and EXA1 (keyIndex), as 60_exceptions.md R203 says. Safe. -/
  | outOfBounds (cause : BoundsCause) (value : Nat) (opcode : Opcode) (pc : PcWord)
  /-- Raised by 2NNN when the stack holds 16 entries (60_exceptions.md R201). Safe. -/
  | stackOverflow (opcode : Opcode) (pc : PcWord)
  /-- Raised by 00EE when the stack is empty (60_exceptions.md R202). Safe. -/
  | stackUnderflow (opcode : Opcode) (pc : PcWord)
  /-- Raised by the host operation loadProgram on an image longer than 0xE00 bytes, never by a step (60_exceptions.md R207;
  70_reset_and_hazards.md R241). Safe. -/
  | programTooLarge (length : Nat)
  /-- Raised by a step that decodes a word of no row of the opcode map (60_exceptions.md R204; 30_encoding.md R80). Safe. -/
  | unsupportedOpcode (opcode : Opcode) (pc : PcWord)
  deriving DecidableEq, Repr

/-- Refusals: the model giving no meaning. -/
inductive Refusal where
  /-- Raised by exec alone, for an instruction that has no meaning yet; safe. Every instruction has one, so nothing raises it. -/
  | notModelled (mnemonic : String)
  deriving DecidableEq, Repr

/-- The state right after `reset` (10_state.md R40; 70_reset_and_hazards.md R240) with the default FONT: memory at its reset
contents, which is the empty list (`State.resetWith` in HostOps.lean takes any other FONT), PC at 0x200, everything else zero. `draws` is the model's own field (log entry 3). -/
def State.reset : State where
  mem := []
  v := Vector.replicate 16 0
  i := 0
  pc := 0x200
  stack := []
  dt := 0
  st := 0
  key := 0
  fb := Vector.replicate 32 0
  redraw := false
  wait := false
  klatch := 0
  draws := 0

end Sys2Proof.Machine
end

