-- ==== Sys2Proof/Machine/Ops.lean ====
section
/-! DEFINITION. The named operations over memory, registers, the program counter, the call stack, the frame buffer, the keypad
and the timers, raising a fault, and the fetch. Every meaning is written over these. -/

namespace Sys2Proof.Machine

/-! ## Memory (10_state.md R31; 20_memory.md) -/

/-- The byte at an address: the listed one, else the reset contents. -/
def Memory.read : Memory → Nat → Byte
  | [], a => unlistedByte a
  | (b, u) :: rest, a => if a = b then u else Memory.read rest a

/-- Store a byte at an address, keeping the canonical form: writing what an unlisted address reads as removes the entry. -/
def Memory.write : Memory → Nat → Byte → Memory
  | [], a, u => if u = unlistedByte a then [] else [(a, u)]
  | (b, w) :: rest, a, u =>
    if a < b then if u = unlistedByte a then (b, w) :: rest else (a, u) :: (b, w) :: rest
    else if a = b then if u = unlistedByte a then rest else (a, u) :: rest
    else (b, w) :: Memory.write rest a u

/-- Every entry of the list lies above `lo`, in rising order, below 4096, and differs from the reset contents. -/
def Memory.wfAbove : Option Nat → Memory → Bool
  | _, [] => true
  | lo, (a, u) :: rest =>
    (match lo with
      | none => true
      | some b => decide (b < a)) && decide (a < Config.memSize) && decide (u ≠ unlistedByte a) && Memory.wfAbove (some a) rest

/-- The canonical form of memory: addresses strictly rising, each below 4096 (20_memory.md R50), and no entry equal to what an
unlisted address reads as. -/
def Memory.wf (m : Memory) : Bool := Memory.wfAbove none m

/-- The bytes at `a`, `a + 1`, ..., `n` of them, in ascending order (20_memory.md R51, R56). -/
def Memory.readBytes (m : Memory) (a : Nat) : Nat → List Byte
  | 0 => []
  | n + 1 => m.read a :: Memory.readBytes m (a + 1) n

/-- Store a list of bytes at `a`, `a + 1`, ..., in ascending order (20_memory.md R51, R56). -/
def Memory.writeBytes (m : Memory) (a : Nat) : List Byte → Memory
  | [] => m
  | b :: bs => Memory.writeBytes (m.write a b) (a + 1) bs

/-! ## Writing one element of the state -/

/-- Replace memory. -/
def State.setMem (s : State) (m : Memory) : State := { s with mem := m }
/-- Replace the register file. -/
def State.setRegs (s : State) (v : Vector Byte 16) : State := { s with v := v }
/-- I <- a (10_state.md R24). -/
def State.setI (s : State) (a : Addr) : State := { s with i := a }
/-- PC <- target (00_scope.md R12). -/
def State.setPc (s : State) (target : PcWord) : State := { s with pc := target }
/-- Replace the call stack. -/
def State.setStack (s : State) (k : List PcWord) : State := { s with stack := k }
/-- DT <- b (10_state.md R28). -/
def State.setDt (s : State) (b : Byte) : State := { s with dt := b }
/-- ST <- b (10_state.md R28). -/
def State.setSt (s : State) (b : Byte) : State := { s with st := b }
/-- KEY <- k (60_exceptions.md R222). -/
def State.setKey (s : State) (k : BitVec 16) : State := { s with key := k }
/-- Replace the frame buffer. -/
def State.setFb (s : State) (f : FrameBuffer) : State := { s with fb := f }
/-- REDRAW <- b (10_state.md R34). -/
def State.setRedraw (s : State) (b : Bool) : State := { s with redraw := b }
/-- WAIT <- b (10_state.md R35). -/
def State.setWait (s : State) (b : Bool) : State := { s with wait := b }
/-- KLATCH <- k (10_state.md R35). -/
def State.setKlatch (s : State) (k : BitVec 16) : State := { s with klatch := k }
/-- Advance or set the model's own counter of draws (log entry 3). -/
def State.setDraws (s : State) (n : Nat) : State := { s with draws := n }

/-! ## General registers (10_state.md R21, R22) -/

/-- The register number of VF (10_state.md R22). -/
abbrev vf : RegNum := 15

theorem regNum_lt (x : RegNum) : x.toNat < 16 := x.isLt

/-- V[x] (00_scope.md R12). No register is hard-wired (10_state.md R21). -/
def State.getV (s : State) (x : RegNum) : Byte := s.v[x.toNat]'(regNum_lt x)

/-- V[x] <- b (00_scope.md R12). -/
def State.setV (s : State) (x : RegNum) (b : Byte) : State := s.setRegs (s.v.set x.toNat b (regNum_lt x))

/-- VF <- flag, then V[x] <- result, in this order, so that with x = 15 the result stands (41_load_alu.md R131; DEDUCED by the
spec, 92_eei_decisions.md D8, log entry 10). Both values are computed from the state at the start of the step (00_scope.md R15). -/
def State.setFlagThenV (s : State) (x : RegNum) (flag result : Byte) : State := (s.setV vf flag).setV x result

/-- V[0] to V[n-1] <- the bytes at a, a + 1, ... (42_index_memory.md R145). -/
def loadRegs (m : Memory) (a : Nat) : Nat → Vector Byte 16 → Vector Byte 16
  | 0, v => v
  | n + 1, v => (loadRegs m a n v).setIfInBounds n (m.read (a + n))

/-- The first n registers, V[0] first (42_index_memory.md R144). -/
def State.firstRegs (s : State) (n : Nat) : List Byte := s.v.toList.take n

/-! ## Program counter (10_state.md R25, R26) -/

/-- PC <- PC + 2, the default advance (00_scope.md R16). -/
def State.advance (s : State) : State := s.setPc (s.pc + 2)

/-- A conditional skip: PC <- PC + 4 when the condition holds, else PC + 2 (40_control_flow.md R108). -/
def State.skipIf (s : State) (c : Bool) : State := if c then s.setPc (s.pc + 4) else s.advance

/-! ## Call stack (10_state.md R27) -/

/-- SP: the number of entries (10_state.md R27). -/
def State.sp (s : State) : Nat := s.stack.length

/-- STACK[SP] <- pc; SP <- SP + 1 (40_control_flow.md R101): the newest entry is the last of the sequence. -/
def State.push (s : State) (pc : PcWord) : State := s.setStack (s.stack ++ [pc])

/-- SP <- SP - 1 (40_control_flow.md R102). -/
def State.pop (s : State) : State := s.setStack s.stack.dropLast

/-! ## Frame buffer (10_state.md R33; 43_display.md) -/

/-- Row r of a frame buffer. -/
def rowOf (f : FrameBuffer) (r : Nat) : BitVec 64 := f[r]?.getD 0

/-- FB[p] of a frame buffer: column p mod 64 of row p / 64 (10_state.md R33). -/
def pixelOf (f : FrameBuffer) (p : Nat) : Bool := (rowOf f (p / Config.fbWidth)).getLsbD (p % Config.fbWidth)

/-- FB[p] <- FB[p] XOR 1. -/
def flipPixel (f : FrameBuffer) (p : Nat) : FrameBuffer :=
  f.setIfInBounds (p / Config.fbWidth) (rowOf f (p / Config.fbWidth) ^^^ (1#64 <<< (p % Config.fbWidth)))

/-- The frame buffer with every pixel 0 (43_display.md R160). -/
def blankFb : FrameBuffer := Vector.replicate 32 0

/-- FB[p] (10_state.md R33). -/
def State.pixel (s : State) (p : Nat) : Bool := pixelOf s.fb p

/-- The index of the pixel a sprite's (row, col) lands on when its anchor is (x, y); both coordinates wrap
(43_display.md R161, R163). -/
def pixelIndex (x y row col : Nat) : Nat :=
  ((y + row) % Config.fbHeight) * Config.fbWidth + (x + col) % Config.fbWidth

/-- A frame buffer being drawn on, and whether a collision has been seen (43_display.md R161). -/
structure Canvas where
  fb : FrameBuffer
  hit : Bool
  deriving DecidableEq, Repr

/-- One sprite bit that is 1, at pixel p: if FB[p] = 1 note the collision, then FB[p] <- FB[p] XOR 1 (43_display.md R161). -/
def plot (c : Canvas) (p : Nat) : Canvas :=
  { fb := flipPixel c.fb p, hit := c.hit || pixelOf c.fb p }

/-- The sprite bit of column col: column 0 is bit 7 (43_display.md R162; PRESUMED by the spec, 92_eei_decisions.md D13, log
entry 9). -/
def spriteBit (b : Byte) (col : Nat) : Bool := b.getLsbD (7 - col)

/-- The columns of a sprite row (43_display.md R161). -/
def spriteColumns : List Nat := [0, 1, 2, 3, 4, 5, 6, 7]

/-- One row of a sprite, its columns in ascending order (43_display.md R161). -/
def drawRow (x y row : Nat) (b : Byte) (c : Canvas) : Canvas :=
  spriteColumns.foldl (fun c col => if spriteBit b col then plot c (pixelIndex x y row col) else c) c

/-- The rows of a sprite from number `row` on, in ascending order (43_display.md R161). -/
def drawRows (x y : Nat) : Nat → List Byte → Canvas → Canvas
  | _, [], c => c
  | row, b :: bs, c => drawRows x y (row + 1) bs (drawRow x y row b c)

/-- The whole sprite, drawn on a frame buffer with VF cleared first (43_display.md R161). -/
def drawSprite (x y : Nat) (bytes : List Byte) (f : FrameBuffer) : Canvas := drawRows x y 0 bytes { fb := f, hit := false }

/-! ## Keypad (10_state.md R29, R35) -/

/-- KEY[k] = 1 (10_state.md R29). -/
def State.keyDown (s : State) (k : Nat) : Bool := s.key.getLsbD k

/-- The keys whose state differs between two key vectors, in ascending order (44_keypad_timers.md R172). -/
def changedKeys (now before : BitVec 16) : List Nat :=
  [0, 1, 2, 3, 4, 5, 6, 7, 8, 9, 10, 11, 12, 13, 14, 15].filter fun k => now.getLsbD k != before.getLsbD k

/-- KLATCH <- KEY; WAIT <- 1 (44_keypad_timers.md R172). -/
def State.beginWait (s : State) : State := (s.setKlatch s.key).setWait true

/-! ## Random byte (41_load_alu.md R130) -/

/-- The free value that this execution of CXNN draws (log entry 2). -/
def State.randomDraw (s : State) : Byte := Config.randomByte s.draws

/-- The next execution of CXNN draws afresh (41_load_alu.md R130; log entry 3). -/
def State.nextDraw (s : State) : State := s.setDraws (s.draws + 1)

/-! ## Raising a fault (60_exceptions.md R205)

This is the machine's whole exception entry: the fault is reported and NOTHING is saved or changed. There is no handler, so
there is no return from one either (R212). -/

/-- End the operation with a fault; every state element keeps its value (60_exceptions.md R205; 00_scope.md R14). The state
after the operation is then the state before it: see `stateAfter` in HostOps.lean (log entry 7). -/
def raise (f : Fault) : Host.Outcome State Fault Refusal := .fault f

/-- OutOfBounds raised by an instruction: it records its cause and value, and the opcode and PC of the instruction
(60_exceptions.md R203, R228). The opcode is the instruction's word (log entry 8). -/
def raiseOutOfBounds (cause : BoundsCause) (value : Nat) (ins : Instr) (s : State) : Host.Outcome State Fault Refusal :=
  raise (.outOfBounds cause value (encode ins) s.pc)

/-- The first address past the end of memory, which a data access reports (20_memory.md R57; DEDUCED by the spec,
92_eei_decisions.md D23, log entry 20). -/
abbrev pastTheEnd : Nat := 0x1000

/-- Check a data access of n bytes from I before anything is changed: I + n - 1 above 0xFFF raises OutOfBounds, and n = 0
needs no check (20_memory.md R55, R57). -/
def guardAccess (cause : BoundsCause) (n : Nat) (ins : Instr) (s t : State) : Host.Outcome State Fault Refusal :=
  if s.i.toNat + n ≤ Config.memSize then .next t else raiseOutOfBounds cause pastTheEnd ins s

/-! ## Fetch and decode (20_memory.md R52; 30_encoding.md R74) -/

/-- A fetch at PC succeeds: PC + 1 < 4096, on the unreduced PC (20_memory.md R53). -/
def State.canFetch (s : State) : Bool := s.pc.toNat + 1 < Config.memSize

/-- The two bytes at PC and PC + 1, big-endian (20_memory.md R51, R52). -/
def State.wordAtPc (s : State) : Opcode := wordOfBytes (s.mem.read s.pc.toNat) (s.mem.read (s.pc.toNat + 1))

/-- The instruction the next step executes, or the fault of the fetch or of the decoder, in this order
(60_exceptions.md R209, R218). A fetch fault reports opcode 0 (R228). -/
def State.fetchInstr (s : State) : Except Fault Instr :=
  if s.canFetch then
    match decodeWord s.wordAtPc with
    | some ins => .ok ins
    | none => .error (.unsupportedOpcode s.wordAtPc s.pc)
  else .error (.outOfBounds .fetch s.pc.toNat 0 s.pc)

/-- s with a word stored where the next step fetches it, most significant byte first (20_memory.md R51). Where no fetch can
succeed at PC, PC becomes the entry point 0x200 (DESIGN CHOICE, log entry 27). -/
def State.placeWord (s : State) (w : Opcode) : State :=
  let t := if s.canFetch then s else s.setPc 0x200
  t.setMem (t.mem.writeBytes t.pc.toNat [highByte w, lowByte w])

end Sys2Proof.Machine
end

