-- ==== Sys2Proof/Machine/Operands.lean ====
section
/-! DEFINITION. The operand forms: every value an instruction computes its effect from (30_encoding.md R73; 42_index_memory.md
R147). Immediates are unsigned and never sign-extended. -/

namespace Sys2Proof.Machine

/-- The NNN field as a jump target, widened with zeros (30_encoding.md R73). -/
def jumpTarget (nnn : Addr) : PcWord := nnn.setWidth 16

/-- NNN + V[0], a 13-bit sum that is not reduced modulo 4096 (40_control_flow.md R103). -/
def State.offsetTarget (s : State) (nnn : Addr) : PcWord := nnn.setWidth 16 + (s.getV 0).setWidth 16

/-- I, the base address of a data access (42_index_memory.md R147). -/
def State.base (s : State) : Nat := s.i.toNat

/-- (I + V[X]) mod 4096 (42_index_memory.md R141). -/
def State.indexPlus (s : State) (x : RegNum) : Addr := s.i + (s.getV x).setWidth 12

/-- 0x050 + V[X] * 5, all 8 bits of V[X] (42_index_memory.md R142). -/
def State.glyphAddress (s : State) (x : RegNum) : Addr := BitVec.ofNat 12 (Config.fontBase + (s.getV x).toNat * 5)

/-- The hundreds, tens and ones of a byte, one digit a byte (42_index_memory.md R143). -/
def decimalDigits (b : Byte) : List Byte :=
  [BitVec.ofNat 8 (b.toNat / 100), BitVec.ofNat 8 (b.toNat / 10 % 10), BitVec.ofNat 8 (b.toNat % 10)]

/-- X + 1, the number of registers FX55 and FX65 move: the range includes V[X] (42_index_memory.md R144, R145). -/
def blockSize (x : RegNum) : Nat := x.toNat + 1

/-- The key index of EX9E and EXA1: the whole 8-bit V[X] (44_keypad_timers.md R176). -/
def State.keyIndex (s : State) (x : RegNum) : Nat := (s.getV x).toNat

/-- The column of a sprite's anchor, V[X] mod 64 (43_display.md R161, R163). -/
def State.anchorColumn (s : State) (x : RegNum) : Nat := (s.getV x).toNat % Config.fbWidth

/-- The row of a sprite's anchor, V[Y] mod 32 (43_display.md R161, R163). -/
def State.anchorRow (s : State) (y : RegNum) : Nat := (s.getV y).toNat % Config.fbHeight

/-- The n bytes of a sprite, from I (43_display.md R161). -/
def State.spriteBytes (s : State) (n : BitVec 4) : List Byte := s.mem.readBytes s.base n.toNat

/-- The frame buffer after a sprite is drawn, and the collision, from the state at the start of the step
(43_display.md R161, R165 d). -/
def State.drawn (s : State) (x y : RegNum) (n : BitVec 4) : Canvas :=
  drawSprite (s.anchorColumn x) (s.anchorRow y) (s.spriteBytes n) s.fb

end Sys2Proof.Machine
end

