-- ==== Sys2Proof/Machine/ControlFlow.lean ====
section
/-! DEFINITION. The meanings of 40_control_flow.md: 00EE, 1NNN, 2NNN, 3XNN, 4XNN, 5XY0, 9XY0, BNNN. PC is the address of the
instruction being executed (10_state.md R25). -/

namespace Sys2Proof.Machine

/-- 00EE (R102): pop the newest entry, PC <- entry + 2; StackUnderflow when the stack is empty (60_exceptions.md R202). -/
def exec00EE (s : State) : Host.Outcome State Fault Refusal :=
  match s.stack.getLast? with
  | none => raise (.stackUnderflow (encode .op00EE) s.pc)
  | some entry => .next (s.pop.setPc (entry + 2))

/-- 1NNN (R100): PC <- NNN. -/
def exec1NNN (nnn : Addr) (s : State) : Host.Outcome State Fault Refusal :=
  .next (s.setPc (jumpTarget nnn))

/-- 2NNN (R101): push PC, the call's own address, and jump; StackOverflow when the stack holds 16 entries
(60_exceptions.md R201). A stack of more entries, which no run reaches, overflows as well (DESIGN CHOICE, log entry 5). -/
def exec2NNN (nnn : Addr) (s : State) : Host.Outcome State Fault Refusal :=
  if Config.stackDepth ≤ s.sp then raise (.stackOverflow (encode (.op2NNN nnn)) s.pc)
  else .next ((s.push s.pc).setPc (jumpTarget nnn))

/-- 3XNN (R104): skip if V[X] = NN. -/
def exec3XNN (x : RegNum) (nn : Byte) (s : State) : Host.Outcome State Fault Refusal :=
  .next (s.skipIf (s.getV x == nn))

/-- 4XNN (R105): skip if V[X] differs from NN. -/
def exec4XNN (x : RegNum) (nn : Byte) (s : State) : Host.Outcome State Fault Refusal :=
  .next (s.skipIf (s.getV x != nn))

/-- 5XY0 (R106): skip if V[X] = V[Y]. -/
def exec5XY0 (x y : RegNum) (s : State) : Host.Outcome State Fault Refusal :=
  .next (s.skipIf (s.getV x == s.getV y))

/-- 9XY0 (R107): skip if V[X] differs from V[Y]. -/
def exec9XY0 (x y : RegNum) (s : State) : Host.Outcome State Fault Refusal :=
  .next (s.skipIf (s.getV x != s.getV y))

/-- BNNN (R103): PC <- NNN + V[0], not reduced. -/
def execBNNN (nnn : Addr) (s : State) : Host.Outcome State Fault Refusal :=
  .next (s.setPc (s.offsetTarget nnn))

end Sys2Proof.Machine
end

