-- ==== Sys2Proof/Machine/Display.lean ====
section
/-! DEFINITION. The meanings of 43_display.md: 00E0 and DXYN. Both set REDRAW whenever they complete (10_state.md R34; DEDUCED
by the spec, 92_eei_decisions.md D14, log entry 14). -/

namespace Sys2Proof.Machine

/-- 00E0 (R160): every pixel 0, REDRAW <- 1. -/
def exec00E0 (s : State) : Host.Outcome State Fault Refusal :=
  .next ((s.setFb blankFb).setRedraw true).advance

/-- DXYN (R161 to R165): XOR the N sprite rows at I into the frame buffer at (V[X] mod 64, V[Y] mod 32), VF <- collision,
REDRAW <- 1; OutOfBounds(mem_read) when N > 0 and I + N - 1 > 0xFFF. -/
def execDXYN (x y : RegNum) (n : BitVec 4) (s : State) : Host.Outcome State Fault Refusal :=
  guardAccess .memRead n.toNat (.opDXYN x y n) s
    (((s.setV vf (collisionFlag (s.drawn x y n).hit)).setFb (s.drawn x y n).fb).setRedraw true).advance

end Sys2Proof.Machine
end

