-- ==== Sys2Proof/Machine/IndexMemory.lean ====
section
/-! DEFINITION. The meanings of 42_index_memory.md: ANNN, FX1E, FX29, FX33, FX55, FX65. FX33, FX55 and FX65 leave I unchanged
(R146; DEDUCED by the spec, 92_eei_decisions.md D15, log entry 13). -/

namespace Sys2Proof.Machine

/-- ANNN (R140): I <- NNN. -/
def execANNN (nnn : Addr) (s : State) : Host.Outcome State Fault Refusal :=
  .next (s.setI nnn).advance

/-- FX1E (R141): I <- (I + V[X]) mod 4096; VF is unchanged. -/
def execFX1E (x : RegNum) (s : State) : Host.Outcome State Fault Refusal :=
  .next (s.setI (s.indexPlus x)).advance

/-- FX29 (R142): I <- 0x050 + V[X] * 5. -/
def execFX29 (x : RegNum) (s : State) : Host.Outcome State Fault Refusal :=
  .next (s.setI (s.glyphAddress x)).advance

/-- FX33 (R143): the decimal digits of V[X] at I, I + 1, I + 2; OutOfBounds(mem_write) when I + 2 > 0xFFF. -/
def execFX33 (x : RegNum) (s : State) : Host.Outcome State Fault Refusal :=
  guardAccess .memWrite 3 (.opFX33 x) s (s.setMem (s.mem.writeBytes s.base (decimalDigits (s.getV x)))).advance

/-- FX55 (R144): V[0] to V[X] at I to I + X; OutOfBounds(mem_write) when I + X > 0xFFF. -/
def execFX55 (x : RegNum) (s : State) : Host.Outcome State Fault Refusal :=
  guardAccess .memWrite (blockSize x) (.opFX55 x) s
    (s.setMem (s.mem.writeBytes s.base (s.firstRegs (blockSize x)))).advance

/-- FX65 (R145): V[0] to V[X] from I to I + X; OutOfBounds(mem_read) when I + X > 0xFFF. -/
def execFX65 (x : RegNum) (s : State) : Host.Outcome State Fault Refusal :=
  guardAccess .memRead (blockSize x) (.opFX65 x) s (s.setRegs (loadRegs s.mem s.base (blockSize x) s.v)).advance

end Sys2Proof.Machine
end

