-- ==== Sys2Proof/Machine/KeypadTimers.lean ====
section
/-! DEFINITION. The meanings of 44_keypad_timers.md: EX9E, EXA1, FX07, FX0A, FX15, FX18. -/

namespace Sys2Proof.Machine

/-- The check the key skips share: a key index above 15 raises OutOfBounds(key_index) (R176; DEDUCED by the spec,
92_eei_decisions.md D10, log entry 15), else skip on the condition. -/
def keySkip (ins : Instr) (k : Nat) (c : Bool) (s : State) : Host.Outcome State Fault Refusal :=
  if 15 < k then raiseOutOfBounds .keyIndex k ins s else .next (s.skipIf c)

/-- EX9E (R170): skip if key V[X] is down. -/
def execEX9E (x : RegNum) (s : State) : Host.Outcome State Fault Refusal :=
  keySkip (.opEX9E x) (s.keyIndex x) (s.keyDown (s.keyIndex x)) s

/-- EXA1 (R171): skip if key V[X] is up. -/
def execEXA1 (x : RegNum) (s : State) : Host.Outcome State Fault Refusal :=
  keySkip (.opEXA1 x) (s.keyIndex x) (!s.keyDown (s.keyIndex x)) s

/-- FX07 (R173): V[X] <- DT. -/
def execFX07 (x : RegNum) (s : State) : Host.Outcome State Fault Refusal :=
  .next (s.setV x s.dt).advance

/-- FX0A (R172): the first execution latches KEY and begins the wait; a later one completes when some key differs from the
latch, with the lowest such key in V[X], and otherwise changes nothing (DEDUCED by the spec, 92_eei_decisions.md D11, log
entry 11). -/
def execFX0A (x : RegNum) (s : State) : Host.Outcome State Fault Refusal :=
  if s.wait then
    match changedKeys s.key s.klatch with
    | [] => .next s
    | k :: _ => .next ((s.setV x (BitVec.ofNat 8 k)).setWait false).advance
  else .next s.beginWait

/-- FX15 (R174): DT <- V[X]. -/
def execFX15 (x : RegNum) (s : State) : Host.Outcome State Fault Refusal :=
  .next (s.setDt (s.getV x)).advance

/-- FX18 (R175): ST <- V[X]. -/
def execFX18 (x : RegNum) (s : State) : Host.Outcome State Fault Refusal :=
  .next (s.setSt (s.getV x)).advance

end Sys2Proof.Machine
end

