-- ==== Sys2Proof/Machine/LoadAlu.lean ====
section
/-! DEFINITION. The meanings of 41_load_alu.md: 6XNN, 7XNN, 8XY0 to 8XY6, 8XYE, CXNN. None touches memory and none can raise
a fault; all end with PC <- PC + 2 (00_scope.md R16). -/

namespace Sys2Proof.Machine

/-- 6XNN (R120): V[X] <- NN. -/
def exec6XNN (x : RegNum) (nn : Byte) (s : State) : Host.Outcome State Fault Refusal :=
  .next (s.setV x nn).advance

/-- 7XNN (R121): V[X] <- (V[X] + NN) mod 256; VF is no flag here. -/
def exec7XNN (x : RegNum) (nn : Byte) (s : State) : Host.Outcome State Fault Refusal :=
  .next (s.setV x (s.getV x + nn)).advance

/-- 8XY0 (R122): V[X] <- V[Y]. -/
def exec8XY0 (x y : RegNum) (s : State) : Host.Outcome State Fault Refusal :=
  .next (s.setV x (s.getV y)).advance

/-- 8XY1 (R123): V[X] <- V[X] OR V[Y]; VF is unchanged. -/
def exec8XY1 (x y : RegNum) (s : State) : Host.Outcome State Fault Refusal :=
  .next (s.setV x (s.getV x ||| s.getV y)).advance

/-- 8XY2 (R124): V[X] <- V[X] AND V[Y]; VF is unchanged. -/
def exec8XY2 (x y : RegNum) (s : State) : Host.Outcome State Fault Refusal :=
  .next (s.setV x (s.getV x &&& s.getV y)).advance

/-- 8XY3 (R125): V[X] <- V[X] XOR V[Y]; VF is unchanged. -/
def exec8XY3 (x y : RegNum) (s : State) : Host.Outcome State Fault Refusal :=
  .next (s.setV x (s.getV x ^^^ s.getV y)).advance

/-- 8XY4 (R126, R131): VF <- carry, then V[X] <- (V[X] + V[Y]) mod 256. -/
def exec8XY4 (x y : RegNum) (s : State) : Host.Outcome State Fault Refusal :=
  .next (s.setFlagThenV x (carryFlag (s.getV x) (s.getV y)) (s.getV x + s.getV y)).advance

/-- 8XY5 (R127, R131): VF <- 1 iff V[X] > V[Y], then V[X] <- (V[X] - V[Y]) mod 256. -/
def exec8XY5 (x y : RegNum) (s : State) : Host.Outcome State Fault Refusal :=
  .next (s.setFlagThenV x (noBorrowFlag (s.getV x) (s.getV y)) (s.getV x - s.getV y)).advance

/-- 8XY6 (R128, R131): VF <- old bit 0 of V[X], then V[X] <- V[X] >> 1; Y is ignored (30_encoding.md R73). -/
def exec8XY6 (x _y : RegNum) (s : State) : Host.Outcome State Fault Refusal :=
  .next (s.setFlagThenV x (shiftedOutRight (s.getV x)) (s.getV x >>> 1)).advance

/-- 8XYE (R129, R131): VF <- old bit 7 of V[X], then V[X] <- (V[X] << 1) mod 256; Y is ignored (30_encoding.md R73). -/
def exec8XYE (x _y : RegNum) (s : State) : Host.Outcome State Fault Refusal :=
  .next (s.setFlagThenV x (shiftedOutLeft (s.getV x)) (s.getV x <<< 1)).advance

/-- CXNN (R130): V[X] <- rnd AND NN, rnd a free value (log entry 2), and the next execution draws afresh. -/
def execCXNN (x : RegNum) (nn : Byte) (s : State) : Host.Outcome State Fault Refusal :=
  .next ((s.setV x (s.randomDraw &&& nn)).nextDraw).advance

end Sys2Proof.Machine
end

