-- ==== Sys2Proof/Machine/Step.lean ====
section
/-! DEFINITION. One step (60_exceptions.md R218), and the placing of a word where the next step fetches it. -/

namespace Sys2Proof.Machine

/-- `step`: fetch, decode, execute exactly one instruction, and report the first fault met (60_exceptions.md R209, R218). The
step's outputs, tone and awaiting key, are functions of the state after it: see HostOps.lean. -/
def step (s : State) : Host.Outcome State Fault Refusal :=
  match s.fetchInstr with
  | .ok i => exec i s
  | .error f => raise f

/-- s with the instruction whose bits, as spec/opcode_table.json numbers them, are `w` stored where the next step fetches. -/
def State.withFetchWord (s : State) (nbits w : Nat) : State := s.placeWord (tableWord nbits w)

end Sys2Proof.Machine
end

