-- ==== Sys2Proof/Machine/HostOps.lean ====
section
/-! DEFINITION. The host's operations on the machine (60_exceptions.md R220 to R229; 70_reset_and_hazards.md R240, R241), the
outputs of a step (R226, R227) and the fault report (R228). Operations are atomic and serialised (00_scope.md R9), so a run is
a list of them, in any order and any number (R220; 70_reset_and_hazards.md R262; log entry 6). -/

namespace Sys2Proof.Machine

/-! ## The effect of each operation on the state -/

/-- The state after `reset` of a machine whose parameter FONT is `font` (00_scope.md R8, R10; 70_reset_and_hazards.md R240):
MEM[0x050 + j] <- FONT[j], every other element as in `State.reset`. -/
def State.resetWith (font : FontTable) : State :=
  State.reset.setMem (State.reset.mem.writeBytes Config.fontBase font.toList)

/-- `reset` (70_reset_and_hazards.md R240): every element of the spec's state at its reset value. The model's own count of
draws goes on, so that no byte is drawn twice (DESIGN CHOICE, log entry 3). -/
def hostReset (font : FontTable) (s : State) : State := (State.resetWith font).setDraws s.draws

/-- `loadProgram(bytes)` (70_reset_and_hazards.md R241): the length is tested first, then reset, then the bytes are copied to
0x200 onward (DEDUCED by the spec, 92_eei_decisions.md D20, log entry 19). -/
def loadProgram (font : FontTable) (bytes : List Byte) (s : State) : Host.Outcome State Fault Refusal :=
  if Config.progMax < bytes.length then raise (.programTooLarge bytes.length)
  else .next ((hostReset font s).setMem ((hostReset font s).mem.writeBytes Config.progBase bytes))

/-- A timer counts down by one if it is not zero (60_exceptions.md R221). -/
def countDown (b : Byte) : Byte := if b = 0 then 0 else b - 1

/-- `tick` (60_exceptions.md R221): both timers count down; nothing else changes. -/
def tick (s : State) : State := (s.setDt (countDown s.dt)).setSt (countDown s.st)

/-- `key_write(k)` (60_exceptions.md R222): KEY <- k; nothing else changes. -/
def keyWrite (k : BitVec 16) (s : State) : State := s.setKey k

/-- A key-down event for key j: `key_write` with bit j set and the other bits as they were (60_exceptions.md R222). -/
def keyDownEvent (j : Fin 16) (s : State) : State := keyWrite (s.key ||| (1#16 <<< j.val)) s

/-- A key-up event for key j: `key_write` with bit j clear and the other bits as they were (60_exceptions.md R222). -/
def keyUpEvent (j : Fin 16) (s : State) : State := keyWrite (s.key &&& ~~~(1#16 <<< j.val)) s

/-- `redraw_clear` (60_exceptions.md R224): REDRAW <- 0; nothing else changes. -/
def redrawClear (s : State) : State := s.setRedraw false

/-! ## The host's reads -/

/-- `fb_read` (60_exceptions.md R223): the 2048 pixels, element y*64 + x for column x and row y. -/
def fbRead (s : State) : List Bool := (List.range (Config.fbWidth * Config.fbHeight)).map s.pixel

/-- `redraw_read` (60_exceptions.md R224). -/
def redrawRead (s : State) : Bool := s.redraw

/-- The snapshot read (60_exceptions.md R229): the whole state. -/
def snapshotRead (s : State) : State := s

/-! ## Outputs of a step -/

/-- The tone output after a completed step: 1 exactly when ST > 0 (60_exceptions.md R226). It is no state. -/
def State.tone (s : State) : Bool := s.st != 0

/-- The awaiting-key output: WAIT as it stands (60_exceptions.md R227). -/
def State.awaitKey (s : State) : Bool := s.wait

/-- The fault report's fields (60_exceptions.md R228). A field the spec gives no value for is none. -/
structure FaultReport where
  code : Nat
  cause : Option BoundsCause
  value : Option Nat
  opcode : Option Opcode
  pc : Option PcWord
  deriving DecidableEq, Repr

/-- The report of a fault, with the codes of 60_exceptions.md R200 and the fields of R228. -/
def Fault.report : Fault → FaultReport
  | .outOfBounds cause value opcode pc => ⟨1, some cause, some value, some opcode, some pc⟩
  | .stackOverflow opcode pc => ⟨2, none, none, some opcode, some pc⟩
  | .stackUnderflow opcode pc => ⟨3, none, none, some opcode, some pc⟩
  | .programTooLarge length => ⟨4, none, some length, none, none⟩
  | .unsupportedOpcode opcode pc => ⟨5, none, none, some opcode, some pc⟩

/-- The report of an operation that completed: code 0 (60_exceptions.md R200, R228). -/
def completedReport : FaultReport := ⟨0, none, none, none, none⟩

/-- What an operation reports to the host (60_exceptions.md R228): code 0 where it completed, the fault's fields where it
faulted. A refusal, which nothing raises, has no report. -/
def reportOf : Host.Outcome State Fault Refusal → Option FaultReport
  | .next _ => some completedReport
  | .fault f => some f.report
  | .refused _ => none

/-- The status triple of a step (60_exceptions.md R218). -/
structure StepOutputs where
  report : FaultReport
  tone : Bool
  awaitKey : Bool
  deriving DecidableEq, Repr

/-- The outputs of `step` at s: tone and awaiting key from the state after the instruction; a faulting step emits no tone
(60_exceptions.md R218, R226, R227; DEDUCED by the spec, 92_eei_decisions.md D17, log entry 18) and leaves WAIT as it was. A
refusal, which nothing raises, has no outputs. -/
def stepOutputs (s : State) : Option StepOutputs :=
  match step s with
  | .next t => some ⟨completedReport, t.tone, t.awaitKey⟩
  | .fault f => some ⟨f.report, false, s.awaitKey⟩
  | .refused _ => none

/-! ## Runs -/

/-- The operations the host may invoke (60_exceptions.md R220). -/
inductive HostOp where
  | reset
  | loadProgram (bytes : List Byte)
  | step
  | tick
  | keyWrite (k : BitVec 16)
  | fbRead
  | redrawRead
  | redrawClear
  | snapshotRead
  deriving DecidableEq, Repr

/-- One operation of the host on a machine whose parameter FONT is `font` (60_exceptions.md R220). The reads change no state
(R223, R224, R229). -/
def perform (font : FontTable) (op : HostOp) (s : State) : Host.Outcome State Fault Refusal :=
  match op with
  | .reset => .next (hostReset font s)
  | .loadProgram bytes => Sys2Proof.Machine.loadProgram font bytes s
  | .step => Sys2Proof.Machine.step s
  | .tick => .next (Sys2Proof.Machine.tick s)
  | .keyWrite k => .next (Sys2Proof.Machine.keyWrite k s)
  | .redrawClear => .next (Sys2Proof.Machine.redrawClear s)
  | .fbRead | .redrawRead | .snapshotRead => .next s

/-- The state after an operation: a fault leaves every element as it was (60_exceptions.md R205; log entry 7). -/
def stateAfter (font : FontTable) (op : HostOp) (s : State) : State :=
  match perform font op s with
  | .next t => t
  | .fault _ => s
  | .refused _ => s

/-- The state after a sequence of operations, in order (60_exceptions.md R220: any sequence is legal). -/
def runOps (font : FontTable) (ops : List HostOp) (s : State) : State := ops.foldl (fun t op => stateAfter font op t) s

end Sys2Proof.Machine
end

