-- ==== Sys2Proof/Safety.lean ====
section
/-! DEFINITION. The terms the statements use: the machine's invariant (10_state.md R36), reachable states (70_reset_and_hazards.md
R246), what it is for a step to leave an element of the state unchanged, the end of a run (R264), and what a sprite covers. -/

namespace Sys2Proof

open Sys2Proof.Machine

/-- The invariant of reachable states (10_state.md R36), with memory's canonical form. The bounds on V, DT, ST, I, FB and KEY
that R36 also lists are in the types of their fields. -/
structure Inv (s : State) : Prop where
  /-- Memory is in its canonical form (20_memory.md R50). -/
  memory : s.mem.wf = true
  /-- SP is in 0 to 16. -/
  depth : s.sp ≤ Config.stackDepth
  /-- Every stacked value is in 0 to 0xFFE. -/
  saved : ∀ a ∈ s.stack, a.toNat ≤ 0xFFE
  /-- PC is in 0 to 0x10FE. -/
  pcRange : s.pc.toNat ≤ 0x10FE
  /-- WAIT = 1 implies that PC <= 0xFFE and MEM[PC], MEM[PC+1] encode an FX0A. -/
  waiting : s.wait = true → s.pc.toNat ≤ 0xFFE ∧ ∃ x, decodeWord s.wordAtPc = some (.opFX0A x)

/-- The machine's initial states: the results of `reset` or of a successful `loadProgram` (70_reset_and_hazards.md R246).
Nothing is said of the state before, so it is any state. FONT is the machine's parameter (00_scope.md R8). -/
inductive Initial (font : FontTable) : State → Prop where
  | reset (s : State) : Initial font (hostReset font s)
  | load (bytes : List Byte) (s t : State) (h : loadProgram font bytes s = .next t) : Initial font t

/-- The states that some sequence of the host's operations reaches from an initial state (60_exceptions.md R220), on a machine
with that FONT. -/
def Reachable (font : FontTable) (s : State) : Prop := ∃ s₀ ops, Initial font s₀ ∧ s = runOps font ops s₀

/-- A run has ended: WAIT = 0 and PC holds the address of a jump to itself (70_reset_and_hazards.md R264). -/
def Ended (s : State) : Prop := s.wait = false ∧ ∃ nnn : Addr, s.fetchInstr = .ok (.op1NNN nnn) ∧ nnn.toNat = s.pc.toNat

/-- The elements of the state, memory byte by byte and the frame buffer pixel by pixel (10_state.md R20). -/
inductive Element where
  | mem (a : Nat)
  | v (x : RegNum)
  | i
  | pc
  | stack
  | dt
  | st
  | key
  | pixel (p : Nat)
  | redraw
  | wait
  | klatch
  | draws
  deriving DecidableEq, Repr

/-- An element has the same value in two states. -/
def SameAt (s t : State) : Element → Prop
  | .mem a => t.mem.read a = s.mem.read a
  | .v x => t.getV x = s.getV x
  | .i => t.i = s.i
  | .pc => t.pc = s.pc
  | .stack => t.stack = s.stack
  | .dt => t.dt = s.dt
  | .st => t.st = s.st
  | .key => t.key = s.key
  | .pixel p => t.pixel p = s.pixel p
  | .redraw => t.redraw = s.redraw
  | .wait => t.wait = s.wait
  | .klatch => t.klatch = s.klatch
  | .draws => t.draws = s.draws

/-- Every element but those in `changed` has the same value in t as in s. -/
def FrameExcept (changed : Element → Prop) (s t : State) : Prop := ∀ e, ¬ changed e → SameAt s t e

/-- Every element but those listed has the same value in t as in s. -/
def Frame (changed : List Element) (s t : State) : Prop := FrameExcept (· ∈ changed) s t

/-- The memory bytes at base, base + 1, ..., n of them. -/
def Cells (base n : Nat) (e : Element) : Prop := ∃ a, e = .mem a ∧ base ≤ a ∧ a < base + n

/-- Every word under a mask and match pair (30_encoding.md R74) decodes to the instruction `ins` makes of it. -/
def DecodesAs (mask value : Opcode) (ins : Opcode → Instr) : Prop :=
  ∀ w : Opcode, w &&& mask = value → decodeWord w = some (ins w)

/-- The instruction faults with f, and the step that fetched it reports f and leaves every element as it was
(60_exceptions.md R205). -/
def StopsWith (i : Instr) (s : State) (f : Fault) : Prop :=
  exec i s = .fault f ∧ (s.fetchInstr = .ok i → step s = .fault f ∧ ∀ font, stateAfter font .step s = s)

/-- A sprite of n rows at I, anchored by V[x] and V[y], has a bit that is 1 at pixel p (43_display.md R161 to R163). -/
def SpriteCovers (s : State) (x y : RegNum) (n : BitVec 4) (p : Nat) : Prop :=
  ∃ row col : Nat, row < n.toNat ∧ col < 8 ∧ (s.mem.read (s.i.toNat + row)).getLsbD (7 - col) = true ∧
    p = (((s.getV y).toNat % 32 + row) % 32) * 64 + ((s.getV x).toNat % 64 + col) % 64

end Sys2Proof
end

