-- ==== Sys2Proof/Certificates/Slice0/Obligations.lean ====
section
/-! DEFINITION. The statements for the provers, from the spec's numbered rules. Each docstring names the rule or the section it
formalises. Where a statement rests on a decision or an inference that the spec marks as its own, it says so. -/

open Sys2Proof Sys2Proof.Machine

/-! ## Encoding (30_encoding.md) -/

/-- R70 to R75 together: decoding the bytes of a well-formed instruction gives it back, whatever bytes follow, so that no bit
of an encoding is dropped. -/
def Obligations.EncodeThenDecodeGivesTheInstruction : Prop :=
  ∀ (i : Instr) (rest : List Byte), i.wellFormed = true → decode (encodeBytes i ++ rest) = .ok (i, rest)

/-- R74: the rows are pairwise disjoint; a word that a row covers decodes to an instruction of that row whose encoding is the
word; a word that no row covers decodes to none; and the step runs the one or raises UnsupportedOpcode(w, PC). -/
def Obligations.DecoderFollowsTheOpcodeMap : Prop :=
  (∀ w : Opcode, ∀ r ∈ opcodeMap, ∀ r' ∈ opcodeMap, r.covers w = true → r'.covers w = true → r = r') ∧
  (∀ w : Opcode, ∀ r ∈ opcodeMap, r.covers w = true → ∃ i, decodeWord w = some i ∧ i.row = r ∧ encode i = w) ∧
  (∀ w : Opcode, (∀ r ∈ opcodeMap, r.covers w = false) → decodeWord w = none) ∧
  (∀ (s : State) (i : Instr), s.pc.toNat ≤ 0xFFE → decodeWord s.wordAtPc = some i → step s = exec i s) ∧
  (∀ s : State, s.pc.toNat ≤ 0xFFE → decodeWord s.wordAtPc = none →
    step s = .fault (.unsupportedOpcode s.wordAtPc s.pc))

/-- 30_encoding.md section 4 (R80 to R83; 92_eei_decisions.md D6 and D7, log entry 17, for families 5, 9 and 8XY7): the complete list of
unsupported words, by family. -/
def Obligations.UnsupportedWordsAreTheListedOnes : Prop :=
  ∀ w : Opcode, decodeWord w = none ↔
    (w.toNat < 0x1000 ∧ w.toNat ≠ 0x00E0 ∧ w.toNat ≠ 0x00EE) ∨
    (0x5000 ≤ w.toNat ∧ w.toNat < 0x6000 ∧ w.toNat % 16 ≠ 0) ∨
    (0x8000 ≤ w.toNat ∧ w.toNat < 0x9000 ∧ w.toNat % 16 ∈ [0x7, 0x8, 0x9, 0xA, 0xB, 0xC, 0xD, 0xF]) ∨
    (0x9000 ≤ w.toNat ∧ w.toNat < 0xA000 ∧ w.toNat % 16 ≠ 0) ∨
    (0xE000 ≤ w.toNat ∧ w.toNat < 0xF000 ∧ w.toNat % 256 ∉ [0x9E, 0xA1]) ∨
    (0xF000 ≤ w.toNat ∧ w.toNat % 256 ∉ [0x07, 0x0A, 0x15, 0x18, 0x1E, 0x29, 0x33, 0x55, 0x65])

/-- A sanity statement: words of 95_test_vectors.md, at least one of each of the 16 families (00_scope.md R18: the top nibble, 0
to F), decode to the instructions the opcode map (R75) gives them, and two unsupported words decode to none. -/
def Obligations.SampleWordsDecodeAsTheMapSays : Prop :=
  decodeWord 0x1ABC = some (.op1NNN 0xABC) ∧ decodeWord 0x332A = some (.op3XNN 3 0x2A) ∧
  decodeWord 0x5120 = some (.op5XY0 1 2) ∧ decodeWord 0x6A12 = some (.op6XNN 10 0x12) ∧
  decodeWord 0x7202 = some (.op7XNN 2 0x02) ∧ decodeWord 0xB300 = some (.opBNNN 0x300) ∧
  decodeWord 0x00E0 = some .op00E0 ∧ decodeWord 0x2300 = some (.op2NNN 0x300) ∧ decodeWord 0x432A = some (.op4XNN 3 0x2A) ∧
  decodeWord 0x9120 = some (.op9XY0 1 2) ∧ decodeWord 0x8125 = some (.op8XY5 1 2) ∧ decodeWord 0x834E = some (.op8XYE 3 4) ∧
  decodeWord 0xA300 = some (.opANNN 0x300) ∧ decodeWord 0xC40F = some (.opCXNN 4 0x0F) ∧
  decodeWord 0xD015 = some (.opDXYN 0 1 5) ∧ decodeWord 0xE0A1 = some (.opEXA1 0) ∧ decodeWord 0xF50A = some (.opFX0A 5) ∧
  decodeWord 0xF265 = some (.opFX65 2) ∧ decodeWord 0x8127 = none ∧ decodeWord 0x0123 = none

/-! ## Fetch and step (20_memory.md; 60_exceptions.md) -/

/-- 60_exceptions.md section 6 (R218): when the two bytes at PC decode to a well-formed instruction, the step is that
instruction's effect on the state, with nothing around it: PC still holds the instruction's own address (10_state.md R25). -/
def Obligations.StepRunsTheDecodedInstruction : Prop :=
  ∀ (s : State) (i : Instr), s.pc.toNat + 1 < 4096 →
    decode [s.mem.read s.pc.toNat, s.mem.read (s.pc.toNat + 1)] = .ok (i, []) → i.wellFormed = true → step s = exec i s

/-- R52: with PC + 1 >= 4096 the step raises OutOfBounds(fetch, PC); otherwise the opcode is MEM[PC] in bits 15 to 8 and
MEM[PC + 1] in bits 7 to 0, and the step is what the decoder makes of it, on the state the fetch left unchanged. -/
def Obligations.FetchChecksPcAndReadsBigEndian : Prop :=
  (∀ s : State, 4096 ≤ s.pc.toNat + 1 → ∃ op p, step s = .fault (.outOfBounds .fetch s.pc.toNat op p)) ∧
  (∀ s : State, s.pc.toNat + 1 < 4096 → ∃ w : Opcode,
    w.toNat = (s.mem.read s.pc.toNat).toNat * 256 + (s.mem.read (s.pc.toNat + 1)).toNat ∧
    (∀ i, decodeWord w = some i → step s = exec i s) ∧
    (decodeWord w = none → ∃ op p, step s = .fault (.unsupportedOpcode op p)))

/-! ## Control transfer (40_control_flow.md) -/

/-- R100: 1NNN sets PC to NNN and changes nothing else; a jump to 0xFFF completes and the next step raises
OutOfBounds(fetch, 0xFFF). -/
def Obligations.JumpSetsPc : Prop :=
  DecodesAs 0xF000 0x1000 (fun w => .op1NNN (w.extractLsb' 0 12)) ∧
  ∀ (nnn : Addr) (s : State), ∃ t, exec (.op1NNN nnn) s = .next t ∧ t.pc.toNat = nnn.toNat ∧ Frame [.pc] s t ∧
    (nnn = 0xFFF → ∃ op p, step t = .fault (.outOfBounds .fetch 0xFFF op p))

/-- 40_control_flow.md section 2, BNNN; the sum is not reduced by 92_eei_decisions.md D2 (log entry 16): PC becomes NNN + V0,
nothing else changes, and from a sum of 0xFFF or more the next step raises OutOfBounds(fetch). -/
def Obligations.JumpWithOffsetDoesNotWrap : Prop :=
  DecodesAs 0xF000 0xB000 (fun w => .opBNNN (w.extractLsb' 0 12)) ∧
  ∀ (nnn : Addr) (s : State), ∃ t, exec (.opBNNN nnn) s = .next t ∧ t.pc.toNat = nnn.toNat + (s.getV 0).toNat ∧
    Frame [.pc] s t ∧
    (0xFFF ≤ nnn.toNat + (s.getV 0).toNat → ∃ op p, step t = .fault (.outOfBounds .fetch (nnn.toNat + (s.getV 0).toNat) op p))

/-- R101 and R201: 2NNN pushes its own address on top of the stack and jumps, as long as fewer than 16 entries are there; with
16 it raises StackOverflow(opcode, PC). -/
def Obligations.CallPushesItsOwnAddress : Prop :=
  DecodesAs 0xF000 0x2000 (fun w => .op2NNN (w.extractLsb' 0 12)) ∧
  (∀ (nnn : Addr) (s : State), s.sp < 16 →
    ∃ t, exec (.op2NNN nnn) s = .next t ∧ t.stack = s.stack ++ [s.pc] ∧ t.sp = s.sp + 1 ∧ t.pc.toNat = nnn.toNat ∧
      Frame [.pc, .stack] s t) ∧
  (∀ (nnn : Addr) (s : State), s.sp = 16 → StopsWith (.op2NNN nnn) s (.stackOverflow (0x2#4 ++ nnn) s.pc))

/-- R102 and R202: 00EE takes the newest entry off the stack and continues 2 bytes past it; on the empty stack it raises
StackUnderflow(opcode, PC). -/
def Obligations.ReturnTakesTheNewestEntry : Prop :=
  DecodesAs 0xFFFF 0x00EE (fun _ => .op00EE) ∧
  (∀ (s : State) (older : List PcWord) (newest : PcWord), s.stack = older ++ [newest] →
    ∃ t, exec .op00EE s = .next t ∧ t.stack = older ∧ t.sp = s.sp - 1 ∧ t.pc = newest + 2 ∧ Frame [.pc, .stack] s t) ∧
  (∀ s : State, s.stack = [] → StopsWith .op00EE s (.stackUnderflow 0x00EE s.pc))

/-- 40_control_flow.md section 3 (R101, R102): after a call, a return from any state that has the call's stack comes back to
the instruction after the call, with the stack as it was before the call. -/
def Obligations.ReturnComesBackAfterTheCall : Prop :=
  ∀ (nnn : Addr) (s t u : State), exec (.op2NNN nnn) s = .next t → u.stack = t.stack →
    ∃ r, exec .op00EE u = .next r ∧ r.pc = s.pc + 2 ∧ r.stack = s.stack ∧ Frame [.pc, .stack] u r

/-- R104, R105, R106 and R107: 3XNN, 4XNN, 5XY0 and 9XY0 set PC to PC + 4 when their condition holds, else to PC + 2, and
change nothing else. -/
def Obligations.ConditionalSkipsCompareWholeRegisters : Prop :=
  DecodesAs 0xF000 0x3000 (fun w => .op3XNN (w.extractLsb' 8 4) (w.extractLsb' 0 8)) ∧
  DecodesAs 0xF000 0x4000 (fun w => .op4XNN (w.extractLsb' 8 4) (w.extractLsb' 0 8)) ∧
  DecodesAs 0xF00F 0x5000 (fun w => .op5XY0 (w.extractLsb' 8 4) (w.extractLsb' 4 4)) ∧
  DecodesAs 0xF00F 0x9000 (fun w => .op9XY0 (w.extractLsb' 8 4) (w.extractLsb' 4 4)) ∧
  (∀ (x : RegNum) (nn : Byte) (s : State), ∃ t, exec (.op3XNN x nn) s = .next t ∧
    t.pc = s.pc + (if (s.getV x).toNat = nn.toNat then 4 else 2) ∧ Frame [.pc] s t) ∧
  (∀ (x : RegNum) (nn : Byte) (s : State), ∃ t, exec (.op4XNN x nn) s = .next t ∧
    t.pc = s.pc + (if (s.getV x).toNat = nn.toNat then 2 else 4) ∧ Frame [.pc] s t) ∧
  (∀ (x y : RegNum) (s : State), ∃ t, exec (.op5XY0 x y) s = .next t ∧
    t.pc = s.pc + (if (s.getV x).toNat = (s.getV y).toNat then 4 else 2) ∧ Frame [.pc] s t) ∧
  (∀ (x y : RegNum) (s : State), ∃ t, exec (.op9XY0 x y) s = .next t ∧
    t.pc = s.pc + (if (s.getV x).toNat = (s.getV y).toNat then 2 else 4) ∧ Frame [.pc] s t)

/-! ## Loads, arithmetic, logic, shifts, random (41_load_alu.md) -/

/-- R120 and R122: 6XNN loads V[X] with NN and 8XY0 copies V[Y] to V[X]; only V[X] and PC change. -/
def Obligations.LoadImmediateAndCopy : Prop :=
  DecodesAs 0xF000 0x6000 (fun w => .op6XNN (w.extractLsb' 8 4) (w.extractLsb' 0 8)) ∧
  DecodesAs 0xF00F 0x8000 (fun w => .op8XY0 (w.extractLsb' 8 4) (w.extractLsb' 4 4)) ∧
  (∀ (x : RegNum) (nn : Byte) (s : State), ∃ t, exec (.op6XNN x nn) s = .next t ∧
    t.getV x = nn ∧ t.pc = s.pc + 2 ∧ Frame [.pc, .v x] s t) ∧
  (∀ (x y : RegNum) (s : State), ∃ t, exec (.op8XY0 x y) s = .next t ∧
    t.getV x = s.getV y ∧ t.pc = s.pc + 2 ∧ Frame [.pc, .v x] s t)

/-- 41_load_alu.md section 2, 7XNN: the sum wraps modulo 256 and VF is not written, an inference the spec marks as its own
("derived: the table row lists no VF write"), unless X is 15. -/
def Obligations.AddImmediateWrapsWithoutFlag : Prop :=
  DecodesAs 0xF000 0x7000 (fun w => .op7XNN (w.extractLsb' 8 4) (w.extractLsb' 0 8)) ∧
  ∀ (x : RegNum) (nn : Byte) (s : State), ∃ t, exec (.op7XNN x nn) s = .next t ∧
    (t.getV x).toNat = ((s.getV x).toNat + nn.toNat) % 256 ∧ t.pc = s.pc + 2 ∧ Frame [.pc, .v x] s t

/-- 41_load_alu.md section 3, 8XY1, 8XY2 and 8XY3: bit by bit OR, AND and exclusive OR; VF is not written, an inference the
spec marks as its own ("derived: the table row lists no VF write"), unless X is 15. -/
def Obligations.LogicWorksBitByBitWithoutFlag : Prop :=
  DecodesAs 0xF00F 0x8001 (fun w => .op8XY1 (w.extractLsb' 8 4) (w.extractLsb' 4 4)) ∧
  DecodesAs 0xF00F 0x8002 (fun w => .op8XY2 (w.extractLsb' 8 4) (w.extractLsb' 4 4)) ∧
  DecodesAs 0xF00F 0x8003 (fun w => .op8XY3 (w.extractLsb' 8 4) (w.extractLsb' 4 4)) ∧
  ∀ (x y : RegNum) (s : State),
    (∃ t, exec (.op8XY1 x y) s = .next t ∧
      (∀ b < 8, (t.getV x).getLsbD b = ((s.getV x).getLsbD b || (s.getV y).getLsbD b)) ∧
      t.pc = s.pc + 2 ∧ Frame [.pc, .v x] s t) ∧
    (∃ t, exec (.op8XY2 x y) s = .next t ∧
      (∀ b < 8, (t.getV x).getLsbD b = ((s.getV x).getLsbD b && (s.getV y).getLsbD b)) ∧
      t.pc = s.pc + 2 ∧ Frame [.pc, .v x] s t) ∧
    (∃ t, exec (.op8XY3 x y) s = .next t ∧
      (∀ b < 8, (t.getV x).getLsbD b = ((s.getV x).getLsbD b != (s.getV y).getLsbD b)) ∧
      t.pc = s.pc + 2 ∧ Frame [.pc, .v x] s t)

/-- 41_load_alu.md sections 1 and 4, 8XY4: V[X] is the sum modulo 256 and VF the carry. With X = 15 the sum stands in VF, by
92_eei_decisions.md D8 (log entry 10). -/
def Obligations.AddSetsCarry : Prop :=
  DecodesAs 0xF00F 0x8004 (fun w => .op8XY4 (w.extractLsb' 8 4) (w.extractLsb' 4 4)) ∧
  ∀ (x y : RegNum) (s : State), ∃ t, exec (.op8XY4 x y) s = .next t ∧
    (t.getV x).toNat = ((s.getV x).toNat + (s.getV y).toNat) % 256 ∧
    (x ≠ 15 → (t.getV 15).toNat = if 255 < (s.getV x).toNat + (s.getV y).toNat then 1 else 0) ∧
    t.pc = s.pc + 2 ∧ Frame [.pc, .v x, .v 15] s t

/-- 41_load_alu.md sections 1 and 4, 8XY5: V[X] is the difference modulo 256 and VF is 1 exactly when V[X] > V[Y]; 0 for equal
operands by 90_conflicts.md C2 (log entry 12). With X = 15 the difference stands in VF, by 92_eei_decisions.md D8 (log entry 10). -/
def Obligations.SubtractSetsStrictNoBorrow : Prop :=
  DecodesAs 0xF00F 0x8005 (fun w => .op8XY5 (w.extractLsb' 8 4) (w.extractLsb' 4 4)) ∧
  ∀ (x y : RegNum) (s : State), ∃ t, exec (.op8XY5 x y) s = .next t ∧
    (t.getV x).toNat = (if (s.getV y).toNat ≤ (s.getV x).toNat then (s.getV x).toNat - (s.getV y).toNat
      else (s.getV x).toNat + 256 - (s.getV y).toNat) ∧
    (x ≠ 15 → (t.getV 15).toNat = if (s.getV y).toNat < (s.getV x).toNat then 1 else 0) ∧
    t.pc = s.pc + 2 ∧ Frame [.pc, .v x, .v 15] s t

/-- 41_load_alu.md section 5, 8XY6 and 8XYE: V[X] is halved or doubled modulo 256, VF is the bit shifted out, and Y is ignored
whatever it is. With X = 15 the shifted value stands in VF, by 92_eei_decisions.md D8 (log entry 10). -/
def Obligations.ShiftsMoveOneBitIntoVf : Prop :=
  DecodesAs 0xF00F 0x8006 (fun w => .op8XY6 (w.extractLsb' 8 4) (w.extractLsb' 4 4)) ∧
  DecodesAs 0xF00F 0x800E (fun w => .op8XYE (w.extractLsb' 8 4) (w.extractLsb' 4 4)) ∧
  ∀ (x y : RegNum) (s : State),
    (∃ t, exec (.op8XY6 x y) s = .next t ∧ (t.getV x).toNat = (s.getV x).toNat / 2 ∧
      (x ≠ 15 → (t.getV 15).toNat = (s.getV x).toNat % 2) ∧ t.pc = s.pc + 2 ∧ Frame [.pc, .v x, .v 15] s t) ∧
    (∃ t, exec (.op8XYE x y) s = .next t ∧ (t.getV x).toNat = (s.getV x).toNat * 2 % 256 ∧
      (x ≠ 15 → (t.getV 15).toNat = (s.getV x).toNat / 128) ∧ t.pc = s.pc + 2 ∧ Frame [.pc, .v x, .v 15] s t)

/-- 41_load_alu.md section 6, CXNN (92_eei_decisions.md D12; log entries 2 and 3): V[X] is the byte drawn, which is free, AND
NN; so every bit that is 0 in NN is 0, and the next execution draws afresh. It holds for every value of the draw. -/
def Obligations.RandomByteIsMasked : Prop :=
  DecodesAs 0xF000 0xC000 (fun w => .opCXNN (w.extractLsb' 8 4) (w.extractLsb' 0 8)) ∧
  ∀ (x : RegNum) (nn : Byte) (s : State), ∃ t, exec (.opCXNN x nn) s = .next t ∧
    (∀ b < 8, (t.getV x).getLsbD b = ((Config.randomByte s.draws).getLsbD b && nn.getLsbD b)) ∧
    t.draws = s.draws + 1 ∧ t.pc = s.pc + 2 ∧ Frame [.pc, .v x, .draws] s t

/-! ## Index register and memory transfer (42_index_memory.md) -/

/-- R140: ANNN loads I with NNN; only I and PC change. -/
def Obligations.LoadIndexSetsI : Prop :=
  DecodesAs 0xF000 0xA000 (fun w => .opANNN (w.extractLsb' 0 12)) ∧
  ∀ (nnn : Addr) (s : State), ∃ t, exec (.opANNN nnn) s = .next t ∧ t.i = nnn ∧ t.pc = s.pc + 2 ∧ Frame [.pc, .i] s t

/-- 42_index_memory.md section 2, FX1E and FX29: I is (I + V[X]) mod 4096, VF unwritten (an inference the spec marks as its
own), or 0x050 + V[X] * 5 for all 256 values of V[X] (above 15 an inference the spec marks as its own). -/
def Obligations.IndexArithmetic : Prop :=
  DecodesAs 0xF0FF 0xF01E (fun w => .opFX1E (w.extractLsb' 8 4)) ∧
  DecodesAs 0xF0FF 0xF029 (fun w => .opFX29 (w.extractLsb' 8 4)) ∧
  ∀ (x : RegNum) (s : State),
    (∃ t, exec (.opFX1E x) s = .next t ∧ t.i.toNat = (s.i.toNat + (s.getV x).toNat) % 4096 ∧ t.pc = s.pc + 2 ∧
      Frame [.pc, .i] s t) ∧
    (∃ t, exec (.opFX29 x) s = .next t ∧ t.i.toNat = 0x050 + (s.getV x).toNat * 5 ∧ t.pc = s.pc + 2 ∧ Frame [.pc, .i] s t)

/-- R143: FX33 stores the hundreds, tens and ones of V[X] at I, I + 1 and I + 2 and changes no other byte and nothing else but
PC; with I + 2 > 0xFFF it raises OutOfBounds(mem_write, 0x1000). -/
def Obligations.StoreDecimalDigits : Prop :=
  DecodesAs 0xF0FF 0xF033 (fun w => .opFX33 (w.extractLsb' 8 4)) ∧
  (∀ (x : RegNum) (s : State), s.mem.wf = true → s.base + 2 ≤ 0xFFF → ∃ t, exec (.opFX33 x) s = .next t ∧
    (t.mem.read s.base).toNat = (s.getV x).toNat / 100 ∧
    (t.mem.read (s.base + 1)).toNat = (s.getV x).toNat / 10 % 10 ∧
    (t.mem.read (s.base + 2)).toNat = (s.getV x).toNat % 10 ∧
    t.pc = s.pc + 2 ∧ FrameExcept (fun e => e = .pc ∨ Cells s.base 3 e) s t) ∧
  (∀ (x : RegNum) (s : State), 0xFFF < s.base + 2 →
    ∃ op p, StopsWith (.opFX33 x) s (.outOfBounds .memWrite 0x1000 op p))

/-- R144: FX55 stores V[0] to V[X] inclusive at I to I + X and changes no other byte and nothing else but PC; with
I + X > 0xFFF it raises OutOfBounds(mem_write, 0x1000). -/
def Obligations.StoreRegistersUpToX : Prop :=
  DecodesAs 0xF0FF 0xF055 (fun w => .opFX55 (w.extractLsb' 8 4)) ∧
  (∀ (x : RegNum) (s : State), s.mem.wf = true → s.base + x.toNat ≤ 0xFFF → ∃ t, exec (.opFX55 x) s = .next t ∧
    (∀ k : RegNum, k.toNat ≤ x.toNat → t.mem.read (s.base + k.toNat) = s.getV k) ∧
    t.pc = s.pc + 2 ∧ FrameExcept (fun e => e = .pc ∨ Cells s.base (x.toNat + 1) e) s t) ∧
  (∀ (x : RegNum) (s : State), 0xFFF < s.base + x.toNat →
    ∃ op p, StopsWith (.opFX55 x) s (.outOfBounds .memWrite 0x1000 op p))

/-- R145: FX65 loads V[0] to V[X] inclusive from I to I + X and changes nothing else but PC; with I + X > 0xFFF it raises
OutOfBounds(mem_read, 0x1000). -/
def Obligations.LoadRegistersUpToX : Prop :=
  DecodesAs 0xF0FF 0xF065 (fun w => .opFX65 (w.extractLsb' 8 4)) ∧
  (∀ (x : RegNum) (s : State), s.base + x.toNat ≤ 0xFFF → ∃ t, exec (.opFX65 x) s = .next t ∧
    (∀ k : RegNum, k.toNat ≤ x.toNat → t.getV k = s.mem.read (s.base + k.toNat)) ∧
    t.pc = s.pc + 2 ∧ FrameExcept (fun e => e = .pc ∨ ∃ k : RegNum, k.toNat ≤ x.toNat ∧ e = .v k) s t) ∧
  (∀ (x : RegNum) (s : State), 0xFFF < s.base + x.toNat →
    ∃ op p, StopsWith (.opFX65 x) s (.outOfBounds .memRead 0x1000 op p))

/-- 42_index_memory.md sections 3 and 4: registers stored by FX55 come back by an FX65 of the same X from any state with that
memory and that I, whatever the registers hold by then. -/
def Obligations.StoredRegistersLoadBack : Prop :=
  ∀ (x : RegNum) (s t u : State), s.mem.wf = true → exec (.opFX55 x) s = .next t → u.mem = t.mem → u.i = t.i →
    ∃ r, exec (.opFX65 x) u = .next r ∧ ∀ k : RegNum, k.toNat ≤ x.toNat → r.getV k = s.getV k

/-- 20_memory.md section 8 (R62, marked derived): bytes stored by FX55 are what any later fetch from them reads, beginning with
the very next one, combined big-endian. -/
def Obligations.StoredBytesAreFetched : Prop :=
  ∀ (x k : RegNum) (s t u : State), s.mem.wf = true → exec (.opFX55 x) s = .next t → k.toNat < x.toNat →
    u.mem = t.mem → u.pc.toNat = s.base + k.toNat →
    u.wordAtPc.toNat = (s.getV k).toNat * 256 + (s.getV (k + 1)).toNat ∧
    ∀ i, decodeWord u.wordAtPc = some i → step u = exec i u

/-! ## Display (43_display.md) -/

/-- R160: 00E0 makes every pixel 0 and sets REDRAW, whatever they were; nothing else but PC changes. -/
def Obligations.ClearScreenZeroesEveryPixel : Prop :=
  DecodesAs 0xFFFF 0x00E0 (fun _ => .op00E0) ∧
  ∀ s : State, ∃ t, exec .op00E0 s = .next t ∧ (∀ p < 2048, t.pixel p = false) ∧ t.redraw = true ∧ t.pc = s.pc + 2 ∧
    FrameExcept (fun e => e = .pc ∨ e = .redraw ∨ ∃ p, e = .pixel p) s t

/-- 43_display.md section 2 (R161 to R165; 92_eei_decisions.md D9, D13, D14 for reading before clearing VF, the bit order and
REDRAW; log entries 9 and 14): DXYN flips exactly the pixels its sprite covers, sets VF to 1 exactly when one of them was 1,
sets REDRAW, and changes nothing else but PC; past 0xFFF it raises OutOfBounds(mem_read, 0x1000). N = 0 never faults. -/
def Obligations.DrawFlipsCoveredPixels : Prop :=
  DecodesAs 0xF000 0xD000 (fun w => .opDXYN (w.extractLsb' 8 4) (w.extractLsb' 4 4) (w.extractLsb' 0 4)) ∧
  (∀ (x y : RegNum) (n : BitVec 4) (s : State), (n = 0 ∨ s.base + n.toNat - 1 ≤ 0xFFF) →
    ∃ t, exec (.opDXYN x y n) s = .next t ∧
      (∀ p < 2048, (SpriteCovers s x y n p → t.pixel p = !s.pixel p) ∧ (¬ SpriteCovers s x y n p → t.pixel p = s.pixel p)) ∧
      ((∃ p, SpriteCovers s x y n p ∧ s.pixel p = true) → t.getV 15 = 1) ∧
      (¬ (∃ p, SpriteCovers s x y n p ∧ s.pixel p = true) → t.getV 15 = 0) ∧
      t.redraw = true ∧ t.pc = s.pc + 2 ∧
      FrameExcept (fun e => e = .pc ∨ e = .v 15 ∨ e = .redraw ∨ ∃ p, e = .pixel p) s t) ∧
  (∀ (x y : RegNum) (n : BitVec 4) (s : State), n ≠ 0 → 0xFFF < s.base + n.toNat - 1 →
    ∃ op p, StopsWith (.opDXYN x y n) s (.outOfBounds .memRead 0x1000 op p))

/-- 43_display.md section 2 (R165 c): drawing the same sprite at the same place again restores every pixel, and the second draw
sets VF exactly when the first one turned some pixel on. The place is the same when V[X] and V[Y] are, which is so unless the
first draw's VF is one of them. -/
def Obligations.DrawingTwiceRestoresTheScreen : Prop :=
  ∀ (x y : RegNum) (n : BitVec 4) (s t : State), exec (.opDXYN x y n) s = .next t →
    t.getV x = s.getV x → t.getV y = s.getV y →
    ∃ u, exec (.opDXYN x y n) t = .next u ∧ u.fb = s.fb ∧
      (u.getV 15 = 1 ↔ ∃ p, SpriteCovers s x y n p ∧ s.pixel p = false)

/-! ## Keypad and timers (44_keypad_timers.md) -/

/-- 44_keypad_timers.md section 1, EX9E and EXA1: skip when key V[X] is down or up; a key index above 15 raises
OutOfBounds(key_index, V[X]), by 92_eei_decisions.md D10 (log entry 15). Only PC changes. -/
def Obligations.KeySkipsTestOneKey : Prop :=
  DecodesAs 0xF0FF 0xE09E (fun w => .opEX9E (w.extractLsb' 8 4)) ∧
  DecodesAs 0xF0FF 0xE0A1 (fun w => .opEXA1 (w.extractLsb' 8 4)) ∧
  (∀ (x : RegNum) (s : State), (s.getV x).toNat ≤ 15 →
    (∃ t, exec (.opEX9E x) s = .next t ∧ t.pc = s.pc + (if s.key.getLsbD (s.getV x).toNat then 4 else 2) ∧ Frame [.pc] s t) ∧
    (∃ t, exec (.opEXA1 x) s = .next t ∧ t.pc = s.pc + (if s.key.getLsbD (s.getV x).toNat then 2 else 4) ∧ Frame [.pc] s t)) ∧
  (∀ (x : RegNum) (s : State), 15 < (s.getV x).toNat →
    (∃ op p, StopsWith (.opEX9E x) s (.outOfBounds .keyIndex (s.getV x).toNat op p)) ∧
    (∃ op p, StopsWith (.opEXA1 x) s (.outOfBounds .keyIndex (s.getV x).toNat op p)))

/-- R173, R174 and R175: FX07 reads DT into V[X], FX15 writes DT and FX18 writes ST from V[X], and the tone output after an
FX18 is asserted exactly when V[X] is not zero. Only the register or timer written and PC change. -/
def Obligations.TimerInstructionsMoveOneByte : Prop :=
  DecodesAs 0xF0FF 0xF007 (fun w => .opFX07 (w.extractLsb' 8 4)) ∧
  DecodesAs 0xF0FF 0xF015 (fun w => .opFX15 (w.extractLsb' 8 4)) ∧
  DecodesAs 0xF0FF 0xF018 (fun w => .opFX18 (w.extractLsb' 8 4)) ∧
  ∀ (x : RegNum) (s : State),
    (∃ t, exec (.opFX07 x) s = .next t ∧ t.getV x = s.dt ∧ t.pc = s.pc + 2 ∧ Frame [.pc, .v x] s t) ∧
    (∃ t, exec (.opFX15 x) s = .next t ∧ t.dt = s.getV x ∧ t.pc = s.pc + 2 ∧ Frame [.pc, .dt] s t) ∧
    (∃ t, exec (.opFX18 x) s = .next t ∧ t.st = s.getV x ∧ (t.tone = true ↔ (s.getV x).toNat ≠ 0) ∧ t.pc = s.pc + 2 ∧
      Frame [.pc, .st] s t)

/-- 44_keypad_timers.md section 3, FX0A; the protocol is 92_eei_decisions.md D11 (log entry 11). The first execution latches
KEY and begins the wait; while KEY equals the latch nothing at all changes; once it differs, V[X] gets the lowest key that
changed, the wait ends and PC advances. -/
def Obligations.KeyWaitProtocol : Prop :=
  DecodesAs 0xF0FF 0xF00A (fun w => .opFX0A (w.extractLsb' 8 4)) ∧
  ∀ (x : RegNum) (s : State), ∃ t, exec (.opFX0A x) s = .next t ∧
    (s.wait = false → t.wait = true ∧ t.klatch = s.key ∧ Frame [.wait, .klatch] s t) ∧
    (s.wait = true → s.key = s.klatch → Frame [] s t) ∧
    (s.wait = true → s.key ≠ s.klatch → ∃ k < 16, s.key.getLsbD k ≠ s.klatch.getLsbD k ∧
      (∀ j < k, s.key.getLsbD j = s.klatch.getLsbD j) ∧ (t.getV x).toNat = k ∧ t.wait = false ∧ t.pc = s.pc + 2 ∧
      Frame [.pc, .v x, .wait] s t)

/-- 44_keypad_timers.md section 3 and 93_implementation_defined.md U14: however many steps are taken at an FX0A without a key
change, each completes as a step, the machine is waiting and only WAIT and KLATCH have changed; and a key vector that differs
from the one the wait began with then ends the wait at the next step. It rests on a CHOICE, 92_eei_decisions.md D11 (log entry
11): that the first step only latches KEY and never ends the instruction, and that any differing key vector ends the wait, a
release as well as a press, measured against KEY as it stood when the wait began. -/
def Obligations.KeyWaitLastsUntilAKeyChanges : Prop :=
  ∀ (x : RegNum) (s : State) (n : Nat), s.wait = false → s.pc.toNat ≤ 0xFFE → decodeWord s.wordAtPc = some (.opFX0A x) →
    ∃ t, core.run (n + 1) s = .next t ∧ t.wait = true ∧ Frame [.wait, .klatch] s t ∧
      ∀ k : BitVec 16, k ≠ s.key → ∃ u, step (keyWrite k t) = .next u ∧ u.wait = false ∧ u.pc = s.pc + 2

/-! ## Faults (60_exceptions.md) -/

/-- 60_exceptions.md section 6 (R218): an instruction always completes or faults, and so does a step; the model refuses none. -/
def Obligations.NothingIsRefused : Prop :=
  (∀ (i : Instr) (s : State) (r : Refusal), exec i s ≠ .refused r) ∧ (∀ (s : State) (r : Refusal), step s ≠ .refused r)

/-- 60_exceptions.md section 2 (R209, by 92_eei_decisions.md D22): which instruction can raise which fault, with which cause
and value; the other instructions raise nothing. The reported address 0x1000 is by D23 (log entry 20), the fault of a key index
above 15 by D10 (log entry 15). -/
def Obligations.EachInstructionHasItsOneFault : Prop :=
  ∀ (i : Instr) (s : State) (f : Fault), exec i s = .fault f →
    (i = .op00EE ∧ s.stack = [] ∧ f = .stackUnderflow (encode i) s.pc) ∨
    (∃ nnn, i = .op2NNN nnn ∧ 16 ≤ s.sp ∧ f = .stackOverflow (encode i) s.pc) ∨
    (∃ x, i = .opFX33 x ∧ 0xFFF < s.base + 2 ∧ f = .outOfBounds .memWrite 0x1000 (encode i) s.pc) ∨
    (∃ x, i = .opFX55 x ∧ 0xFFF < s.base + x.toNat ∧ f = .outOfBounds .memWrite 0x1000 (encode i) s.pc) ∨
    (∃ x, i = .opFX65 x ∧ 0xFFF < s.base + x.toNat ∧ f = .outOfBounds .memRead 0x1000 (encode i) s.pc) ∨
    (∃ x y n, i = .opDXYN x y n ∧ 0xFFF < s.base + n.toNat - 1 ∧ f = .outOfBounds .memRead 0x1000 (encode i) s.pc) ∨
    (∃ x, (i = .opEX9E x ∨ i = .opEXA1 x) ∧ 15 < (s.getV x).toNat ∧
      f = .outOfBounds .keyIndex (s.getV x).toNat (encode i) s.pc)

/-- 60_exceptions.md sections 1 and 7 (R200, R228, by 92_eei_decisions.md D5, log entry 7): what a faulting step reports. The code is 1, 2,
3 or 5; PC is the PC of the step; the opcode is the word fetched, or 0 where the fetch failed; and the state after it is the
state before it. -/
def Obligations.StepFaultReport : Prop :=
  ∀ (s : State) (f : Fault), step s = .fault f →
    f.report.code ∈ [1, 2, 3, 5] ∧ f.report.pc = some s.pc ∧
    f.report.opcode = some (if s.pc.toNat ≤ 0xFFE then s.wordAtPc else 0) ∧ ∀ font, stateAfter font .step s = s

/-- 60_exceptions.md section 3 (R212, marked derived): a step that faults faults again in the same way, after any sequence of
host operations that holds no `reset` and no `loadProgram`. -/
def Obligations.FaultRepeatsUntilResetOrLoad : Prop :=
  ∀ (font : FontTable) (s : State) (f : Fault) (ops : List HostOp), step s = .fault f →
    (∀ op ∈ ops, op ≠ .reset ∧ ∀ bytes, op ≠ .loadProgram bytes) → step (runOps font ops s) = .fault f

/-! ## What no instruction changes (10_state.md) -/

/-- 10_state.md sections 7 and 9 (R28, R29, R34, R35): no instruction writes KEY; only FX15 changes DT and only FX18 changes
ST; only 00E0 and DXYN set REDRAW and none clears it; only FX0A changes WAIT and KLATCH, the two
elements that 92_eei_decisions.md D11 brings in (log entry 11). -/
def Obligations.ControlElementsHaveOnlyTheirWriters : Prop :=
  ∀ (i : Instr) (s t : State), exec i s = .next t →
    t.key = s.key ∧
    (t.dt ≠ s.dt → ∃ x, i = .opFX15 x) ∧
    (t.st ≠ s.st → ∃ x, i = .opFX18 x) ∧
    (s.redraw = true → t.redraw = true) ∧
    (t.redraw ≠ s.redraw → i = .op00E0 ∨ ∃ x y n, i = .opDXYN x y n) ∧
    (t.wait ≠ s.wait ∨ t.klatch ≠ s.klatch → ∃ x, i = .opFX0A x)

/-- 10_state.md sections 4, 6 and 8 (R24, R27, R32, R33): only ANNN, FX1E and FX29 change I; only 2NNN and 00EE change the
call stack; only FX33 and FX55 change memory; only 00E0 and DXYN change the frame buffer. That FX33, FX55 and FX65 leave
I alone is by 92_eei_decisions.md D15 (log entry 13). -/
def Obligations.StorageHasOnlyItsWriters : Prop :=
  ∀ (i : Instr) (s t : State), exec i s = .next t →
    (t.i ≠ s.i → (∃ nnn, i = .opANNN nnn) ∨ (∃ x, i = .opFX1E x) ∨ ∃ x, i = .opFX29 x) ∧
    (t.stack ≠ s.stack → i = .op00EE ∨ ∃ nnn, i = .op2NNN nnn) ∧
    (t.mem ≠ s.mem → (∃ x, i = .opFX33 x) ∨ ∃ x, i = .opFX55 x) ∧
    (t.fb ≠ s.fb → i = .op00E0 ∨ ∃ x y n, i = .opDXYN x y n)

/-- 10_state.md section 3 (R23, marked derived): VF changes only by the five instructions that write it as a flag, or as the
destination of an instruction whose X field is 15. -/
def Obligations.VfHasOnlyItsWriters : Prop :=
  ∀ (i : Instr) (s t : State), exec i s = .next t → t.getV 15 ≠ s.getV 15 →
    (∃ x y, i = .op8XY4 x y ∨ i = .op8XY5 x y ∨ i = .op8XY6 x y ∨ i = .op8XYE x y) ∨ (∃ x y n, i = .opDXYN x y n) ∨
    (∃ nn, i = .op6XNN 15 nn ∨ i = .op7XNN 15 nn ∨ i = .opCXNN 15 nn) ∨
    (∃ y, i = .op8XY0 15 y ∨ i = .op8XY1 15 y ∨ i = .op8XY2 15 y ∨ i = .op8XY3 15 y) ∨
    i = .opFX07 15 ∨ i = .opFX0A 15 ∨ i = .opFX65 15

/-! ## Invariants (10_state.md R36) -/

/-- 10_state.md section 10 (R36, marked derived): every step keeps the invariant, from every state that meets it. -/
def Obligations.StepKeepsTheInvariant : Prop :=
  ∀ s t : State, Inv s → step s = .next t → Inv t

/-- 10_state.md section 10 (R36, marked derived): the reset state meets the invariant, with any FONT. -/
def Obligations.ResetMeetsTheInvariant : Prop := Inv State.reset ∧ ∀ font : FontTable, Inv (State.resetWith font)

/-- 10_state.md section 10 (R36, marked derived): every host operation, faulting or not, keeps the invariant, with any
FONT. -/
def Obligations.EveryOperationKeepsTheInvariant : Prop :=
  ∀ (font : FontTable) (op : HostOp) (s : State), Inv s → Inv (stateAfter font op s)

/-- 10_state.md section 10 (R36, marked derived) and 70_reset_and_hazards.md section 2: every state that any sequence of host
operations, with any FONT, any program and any keys, reaches from a reset or a load meets the invariant. -/
def Obligations.ReachableStatesMeetTheInvariant : Prop := ∀ (font : FontTable) (s : State), Reachable font s → Inv s

/-- 20_memory.md sections 1 and 7: memory is nothing but its 4096 bytes. Two memories in canonical form that read alike at
every address are the same data. -/
def Obligations.CanonicalMemoriesAreEqualWhenTheyReadAlike : Prop :=
  ∀ m m' : Memory, m.wf = true → m'.wf = true → (∀ a < 4096, m.read a = m'.read a) → m = m'

/-! ## Reset, load and the host's operations (70_reset_and_hazards.md; 60_exceptions.md) -/

/-- 10_state.md section 11 (R40; WAIT and KLATCH by 92_eei_decisions.md D28) and 00_scope.md section 4 (R8): the value of every
element after reset, as the initial state and as the result of `reset` on any state, for every value of the parameter FONT;
nothing is said of its bytes. The state `State.reset` is that of the default FONT (log entry 1). -/
def Obligations.ResetGivesEveryElementItsValue : Prop :=
  (∀ (font : FontTable) (s : State), perform font .reset s = .next (hostReset font s)) ∧
  State.resetWith defaultFont = State.reset ∧
  ∀ (font : FontTable) (t : State), (t = State.resetWith font ∨ ∃ s, t = hostReset font s) →
    (∀ (j : Nat) (h : j < 80), t.mem.read (0x050 + j) = font[j]) ∧
    (∀ a < 4096, a < 0x050 ∨ 0x09F < a → t.mem.read a = 0) ∧
    (∀ x, t.getV x = 0) ∧ t.i = 0 ∧ t.pc = 0x200 ∧ t.stack = [] ∧ t.sp = 0 ∧ t.dt = 0 ∧ t.st = 0 ∧
    (∀ k < 16, t.keyDown k = false) ∧ (∀ p < 2048, t.pixel p = false) ∧ t.redraw = false ∧ t.wait = false ∧ t.klatch = 0

/-- 60_exceptions.md section 7 (R221, by 92_eei_decisions.md D18 left without a rate): n ticks take n from each timer, stopping
at zero, and change nothing else. -/
def Obligations.TicksCountDownToZero : Prop :=
  ∀ (font : FontTable) (n : Nat) (s : State), (runOps font (List.replicate n .tick) s).dt.toNat = s.dt.toNat - n ∧
    (runOps font (List.replicate n .tick) s).st.toNat = s.st.toNat - n ∧
    Frame [.dt, .st] s (runOps font (List.replicate n .tick) s)

/-- 60_exceptions.md section 7 (R222, by 92_eei_decisions.md D19): `key_write` sets all 16 keys and nothing else; a key-down or
key-up event changes one key. -/
def Obligations.KeyWriteSetsTheKeys : Prop :=
  (∀ (font : FontTable) (k : BitVec 16) (s : State), ∃ t, perform font (.keyWrite k) s = .next t ∧ (∀ j < 16, t.keyDown j = k.getLsbD j) ∧
    Frame [.key] s t) ∧
  (∀ (j : Fin 16) (s : State), Frame [.key] s (keyDownEvent j s) ∧ Frame [.key] s (keyUpEvent j s) ∧
    ∀ k < 16, (keyDownEvent j s).keyDown k = (decide (k = j.val) || s.keyDown k) ∧
      (keyUpEvent j s).keyDown k = (!decide (k = j.val) && s.keyDown k))

/-- R223 and R224: `fb_read` gives 2048 pixels, element y*64 + x for column x and row y, and changes nothing; `redraw_read`
gives REDRAW and changes nothing; `redraw_clear` clears REDRAW and changes nothing else. -/
def Obligations.DisplayReadsAndRedrawClear : Prop :=
  ∀ (font : FontTable) (s : State),
    (fbRead s).length = 2048 ∧ (∀ x < 64, ∀ (y : Nat) (hy : y < 32), (fbRead s)[y * 64 + x]? = some (s.fb[y].getLsbD x)) ∧
    perform font .fbRead s = .next s ∧ redrawRead s = s.redraw ∧ perform font .redrawRead s = .next s ∧
    ∃ t, perform font .redrawClear s = .next t ∧ t.redraw = false ∧ Frame [.redraw] s t

/-- 70_reset_and_hazards.md section 2 (R241; the order of test and reset by 92_eei_decisions.md D20, log entry 19): an image of
at most 0xE00 bytes completes and leaves the reset state with the image from 0x200 on; a longer one faults with its length and
leaves the state as it was. -/
def Obligations.LoadProgramResetsAndCopies : Prop :=
  (∀ (font : FontTable) (bytes : List Byte) (s : State), bytes.length ≤ 0xE00 → ∃ t, perform font (.loadProgram bytes) s = .next t ∧
    (∀ j < bytes.length, t.mem.read (0x200 + j) = bytes.getD j 0) ∧
    FrameExcept (Cells 0x200 bytes.length) (hostReset font s) t) ∧
  (∀ (font : FontTable) (bytes : List Byte) (s : State), 0xE00 < bytes.length →
    perform font (.loadProgram bytes) s = .fault (.programTooLarge bytes.length) ∧
    (Fault.programTooLarge bytes.length).report.code = 4 ∧ (Fault.programTooLarge bytes.length).report.value = some bytes.length ∧
    stateAfter font (.loadProgram bytes) s = s)

/-- 70_reset_and_hazards.md section 2 (R245): `loadProgram` followed by `step` executes the image's first instruction at 0x200,
with the call stack empty and no wait pending. -/
def Obligations.LoadThenStepRunsTheFirstInstruction : Prop :=
  ∀ (font : FontTable) (i : Instr) (rest : List Byte) (s t : State), perform font (.loadProgram (encodeBytes i ++ rest)) s = .next t →
    t.pc = 0x200 ∧ t.stack = [] ∧ t.wait = false ∧ step t = exec i t

/-- 60_exceptions.md section 7 (R226, by 92_eei_decisions.md D17 for a faulting step, log entry 18; R227): a completed step
outputs tone exactly when ST > 0 after it and awaiting key exactly when WAIT is 1 after it; a faulting step outputs no tone. -/
def Obligations.StepOutputsFollowTheStateAfter : Prop :=
  (∀ s t : State, step s = .next t →
    ∃ o, stepOutputs s = some o ∧ o.report.code = 0 ∧ (o.tone = true ↔ 0 < t.st.toNat) ∧ o.awaitKey = t.wait) ∧
  (∀ (s : State) (f : Fault), step s = .fault f →
    ∃ o, stepOutputs s = some o ∧ o.report = f.report ∧ o.tone = false ∧ o.awaitKey = s.wait)

/-- 70_reset_and_hazards.md section 5 (R264, by 92_eei_decisions.md D24): a run that has ended stays as it is under any number
of steps, and stays ended under ticks, key writes and redraw clears. -/
def Obligations.EndedRunsStayEnded : Prop :=
  ∀ s : State, Ended s → (∀ n, core.run n s = .next s) ∧ Ended (tick s) ∧ (∀ k, Ended (keyWrite k s)) ∧ Ended (redrawClear s)
end

