-- ==== Sys2Proof/Laws/State.lean ====
section
/-! SUPPORT. What each update of one field does to every field, true by rfl: no later proof unfolds a record update. The
composite updates (a register, the flag and a register, PC, the stack, the wait) follow, each over these. -/

namespace Sys2Proof.Machine

variable (s : State)

/-! ### setMem -/
@[simp] theorem State.setMem_mem (m : Memory) : (s.setMem m).mem = m := rfl
@[simp] theorem State.setMem_v (m : Memory) : (s.setMem m).v = s.v := rfl
@[simp] theorem State.setMem_i (m : Memory) : (s.setMem m).i = s.i := rfl
@[simp] theorem State.setMem_pc (m : Memory) : (s.setMem m).pc = s.pc := rfl
@[simp] theorem State.setMem_stack (m : Memory) : (s.setMem m).stack = s.stack := rfl
@[simp] theorem State.setMem_dt (m : Memory) : (s.setMem m).dt = s.dt := rfl
@[simp] theorem State.setMem_st (m : Memory) : (s.setMem m).st = s.st := rfl
@[simp] theorem State.setMem_key (m : Memory) : (s.setMem m).key = s.key := rfl
@[simp] theorem State.setMem_fb (m : Memory) : (s.setMem m).fb = s.fb := rfl
@[simp] theorem State.setMem_redraw (m : Memory) : (s.setMem m).redraw = s.redraw := rfl
@[simp] theorem State.setMem_wait (m : Memory) : (s.setMem m).wait = s.wait := rfl
@[simp] theorem State.setMem_klatch (m : Memory) : (s.setMem m).klatch = s.klatch := rfl
@[simp] theorem State.setMem_draws (m : Memory) : (s.setMem m).draws = s.draws := rfl

/-! ### setRegs -/
@[simp] theorem State.setRegs_mem (w : Vector Byte 16) : (s.setRegs w).mem = s.mem := rfl
@[simp] theorem State.setRegs_v (w : Vector Byte 16) : (s.setRegs w).v = w := rfl
@[simp] theorem State.setRegs_i (w : Vector Byte 16) : (s.setRegs w).i = s.i := rfl
@[simp] theorem State.setRegs_pc (w : Vector Byte 16) : (s.setRegs w).pc = s.pc := rfl
@[simp] theorem State.setRegs_stack (w : Vector Byte 16) : (s.setRegs w).stack = s.stack := rfl
@[simp] theorem State.setRegs_dt (w : Vector Byte 16) : (s.setRegs w).dt = s.dt := rfl
@[simp] theorem State.setRegs_st (w : Vector Byte 16) : (s.setRegs w).st = s.st := rfl
@[simp] theorem State.setRegs_key (w : Vector Byte 16) : (s.setRegs w).key = s.key := rfl
@[simp] theorem State.setRegs_fb (w : Vector Byte 16) : (s.setRegs w).fb = s.fb := rfl
@[simp] theorem State.setRegs_redraw (w : Vector Byte 16) : (s.setRegs w).redraw = s.redraw := rfl
@[simp] theorem State.setRegs_wait (w : Vector Byte 16) : (s.setRegs w).wait = s.wait := rfl
@[simp] theorem State.setRegs_klatch (w : Vector Byte 16) : (s.setRegs w).klatch = s.klatch := rfl
@[simp] theorem State.setRegs_draws (w : Vector Byte 16) : (s.setRegs w).draws = s.draws := rfl

/-! ### setI -/
@[simp] theorem State.setI_mem (a : Addr) : (s.setI a).mem = s.mem := rfl
@[simp] theorem State.setI_v (a : Addr) : (s.setI a).v = s.v := rfl
@[simp] theorem State.setI_i (a : Addr) : (s.setI a).i = a := rfl
@[simp] theorem State.setI_pc (a : Addr) : (s.setI a).pc = s.pc := rfl
@[simp] theorem State.setI_stack (a : Addr) : (s.setI a).stack = s.stack := rfl
@[simp] theorem State.setI_dt (a : Addr) : (s.setI a).dt = s.dt := rfl
@[simp] theorem State.setI_st (a : Addr) : (s.setI a).st = s.st := rfl
@[simp] theorem State.setI_key (a : Addr) : (s.setI a).key = s.key := rfl
@[simp] theorem State.setI_fb (a : Addr) : (s.setI a).fb = s.fb := rfl
@[simp] theorem State.setI_redraw (a : Addr) : (s.setI a).redraw = s.redraw := rfl
@[simp] theorem State.setI_wait (a : Addr) : (s.setI a).wait = s.wait := rfl
@[simp] theorem State.setI_klatch (a : Addr) : (s.setI a).klatch = s.klatch := rfl
@[simp] theorem State.setI_draws (a : Addr) : (s.setI a).draws = s.draws := rfl

/-! ### setPc -/
@[simp] theorem State.setPc_mem (a : PcWord) : (s.setPc a).mem = s.mem := rfl
@[simp] theorem State.setPc_v (a : PcWord) : (s.setPc a).v = s.v := rfl
@[simp] theorem State.setPc_i (a : PcWord) : (s.setPc a).i = s.i := rfl
@[simp] theorem State.setPc_pc (a : PcWord) : (s.setPc a).pc = a := rfl
@[simp] theorem State.setPc_stack (a : PcWord) : (s.setPc a).stack = s.stack := rfl
@[simp] theorem State.setPc_dt (a : PcWord) : (s.setPc a).dt = s.dt := rfl
@[simp] theorem State.setPc_st (a : PcWord) : (s.setPc a).st = s.st := rfl
@[simp] theorem State.setPc_key (a : PcWord) : (s.setPc a).key = s.key := rfl
@[simp] theorem State.setPc_fb (a : PcWord) : (s.setPc a).fb = s.fb := rfl
@[simp] theorem State.setPc_redraw (a : PcWord) : (s.setPc a).redraw = s.redraw := rfl
@[simp] theorem State.setPc_wait (a : PcWord) : (s.setPc a).wait = s.wait := rfl
@[simp] theorem State.setPc_klatch (a : PcWord) : (s.setPc a).klatch = s.klatch := rfl
@[simp] theorem State.setPc_draws (a : PcWord) : (s.setPc a).draws = s.draws := rfl

/-! ### setStack -/
@[simp] theorem State.setStack_mem (k : List PcWord) : (s.setStack k).mem = s.mem := rfl
@[simp] theorem State.setStack_v (k : List PcWord) : (s.setStack k).v = s.v := rfl
@[simp] theorem State.setStack_i (k : List PcWord) : (s.setStack k).i = s.i := rfl
@[simp] theorem State.setStack_pc (k : List PcWord) : (s.setStack k).pc = s.pc := rfl
@[simp] theorem State.setStack_stack (k : List PcWord) : (s.setStack k).stack = k := rfl
@[simp] theorem State.setStack_dt (k : List PcWord) : (s.setStack k).dt = s.dt := rfl
@[simp] theorem State.setStack_st (k : List PcWord) : (s.setStack k).st = s.st := rfl
@[simp] theorem State.setStack_key (k : List PcWord) : (s.setStack k).key = s.key := rfl
@[simp] theorem State.setStack_fb (k : List PcWord) : (s.setStack k).fb = s.fb := rfl
@[simp] theorem State.setStack_redraw (k : List PcWord) : (s.setStack k).redraw = s.redraw := rfl
@[simp] theorem State.setStack_wait (k : List PcWord) : (s.setStack k).wait = s.wait := rfl
@[simp] theorem State.setStack_klatch (k : List PcWord) : (s.setStack k).klatch = s.klatch := rfl
@[simp] theorem State.setStack_draws (k : List PcWord) : (s.setStack k).draws = s.draws := rfl

/-! ### setDt -/
@[simp] theorem State.setDt_mem (b : Byte) : (s.setDt b).mem = s.mem := rfl
@[simp] theorem State.setDt_v (b : Byte) : (s.setDt b).v = s.v := rfl
@[simp] theorem State.setDt_i (b : Byte) : (s.setDt b).i = s.i := rfl
@[simp] theorem State.setDt_pc (b : Byte) : (s.setDt b).pc = s.pc := rfl
@[simp] theorem State.setDt_stack (b : Byte) : (s.setDt b).stack = s.stack := rfl
@[simp] theorem State.setDt_dt (b : Byte) : (s.setDt b).dt = b := rfl
@[simp] theorem State.setDt_st (b : Byte) : (s.setDt b).st = s.st := rfl
@[simp] theorem State.setDt_key (b : Byte) : (s.setDt b).key = s.key := rfl
@[simp] theorem State.setDt_fb (b : Byte) : (s.setDt b).fb = s.fb := rfl
@[simp] theorem State.setDt_redraw (b : Byte) : (s.setDt b).redraw = s.redraw := rfl
@[simp] theorem State.setDt_wait (b : Byte) : (s.setDt b).wait = s.wait := rfl
@[simp] theorem State.setDt_klatch (b : Byte) : (s.setDt b).klatch = s.klatch := rfl
@[simp] theorem State.setDt_draws (b : Byte) : (s.setDt b).draws = s.draws := rfl

/-! ### setSt -/
@[simp] theorem State.setSt_mem (b : Byte) : (s.setSt b).mem = s.mem := rfl
@[simp] theorem State.setSt_v (b : Byte) : (s.setSt b).v = s.v := rfl
@[simp] theorem State.setSt_i (b : Byte) : (s.setSt b).i = s.i := rfl
@[simp] theorem State.setSt_pc (b : Byte) : (s.setSt b).pc = s.pc := rfl
@[simp] theorem State.setSt_stack (b : Byte) : (s.setSt b).stack = s.stack := rfl
@[simp] theorem State.setSt_dt (b : Byte) : (s.setSt b).dt = s.dt := rfl
@[simp] theorem State.setSt_st (b : Byte) : (s.setSt b).st = b := rfl
@[simp] theorem State.setSt_key (b : Byte) : (s.setSt b).key = s.key := rfl
@[simp] theorem State.setSt_fb (b : Byte) : (s.setSt b).fb = s.fb := rfl
@[simp] theorem State.setSt_redraw (b : Byte) : (s.setSt b).redraw = s.redraw := rfl
@[simp] theorem State.setSt_wait (b : Byte) : (s.setSt b).wait = s.wait := rfl
@[simp] theorem State.setSt_klatch (b : Byte) : (s.setSt b).klatch = s.klatch := rfl
@[simp] theorem State.setSt_draws (b : Byte) : (s.setSt b).draws = s.draws := rfl

/-! ### setKey -/
@[simp] theorem State.setKey_mem (k : BitVec 16) : (s.setKey k).mem = s.mem := rfl
@[simp] theorem State.setKey_v (k : BitVec 16) : (s.setKey k).v = s.v := rfl
@[simp] theorem State.setKey_i (k : BitVec 16) : (s.setKey k).i = s.i := rfl
@[simp] theorem State.setKey_pc (k : BitVec 16) : (s.setKey k).pc = s.pc := rfl
@[simp] theorem State.setKey_stack (k : BitVec 16) : (s.setKey k).stack = s.stack := rfl
@[simp] theorem State.setKey_dt (k : BitVec 16) : (s.setKey k).dt = s.dt := rfl
@[simp] theorem State.setKey_st (k : BitVec 16) : (s.setKey k).st = s.st := rfl
@[simp] theorem State.setKey_key (k : BitVec 16) : (s.setKey k).key = k := rfl
@[simp] theorem State.setKey_fb (k : BitVec 16) : (s.setKey k).fb = s.fb := rfl
@[simp] theorem State.setKey_redraw (k : BitVec 16) : (s.setKey k).redraw = s.redraw := rfl
@[simp] theorem State.setKey_wait (k : BitVec 16) : (s.setKey k).wait = s.wait := rfl
@[simp] theorem State.setKey_klatch (k : BitVec 16) : (s.setKey k).klatch = s.klatch := rfl
@[simp] theorem State.setKey_draws (k : BitVec 16) : (s.setKey k).draws = s.draws := rfl

/-! ### setFb -/
@[simp] theorem State.setFb_mem (f : FrameBuffer) : (s.setFb f).mem = s.mem := rfl
@[simp] theorem State.setFb_v (f : FrameBuffer) : (s.setFb f).v = s.v := rfl
@[simp] theorem State.setFb_i (f : FrameBuffer) : (s.setFb f).i = s.i := rfl
@[simp] theorem State.setFb_pc (f : FrameBuffer) : (s.setFb f).pc = s.pc := rfl
@[simp] theorem State.setFb_stack (f : FrameBuffer) : (s.setFb f).stack = s.stack := rfl
@[simp] theorem State.setFb_dt (f : FrameBuffer) : (s.setFb f).dt = s.dt := rfl
@[simp] theorem State.setFb_st (f : FrameBuffer) : (s.setFb f).st = s.st := rfl
@[simp] theorem State.setFb_key (f : FrameBuffer) : (s.setFb f).key = s.key := rfl
@[simp] theorem State.setFb_fb (f : FrameBuffer) : (s.setFb f).fb = f := rfl
@[simp] theorem State.setFb_redraw (f : FrameBuffer) : (s.setFb f).redraw = s.redraw := rfl
@[simp] theorem State.setFb_wait (f : FrameBuffer) : (s.setFb f).wait = s.wait := rfl
@[simp] theorem State.setFb_klatch (f : FrameBuffer) : (s.setFb f).klatch = s.klatch := rfl
@[simp] theorem State.setFb_draws (f : FrameBuffer) : (s.setFb f).draws = s.draws := rfl

/-! ### setRedraw -/
@[simp] theorem State.setRedraw_mem (b : Bool) : (s.setRedraw b).mem = s.mem := rfl
@[simp] theorem State.setRedraw_v (b : Bool) : (s.setRedraw b).v = s.v := rfl
@[simp] theorem State.setRedraw_i (b : Bool) : (s.setRedraw b).i = s.i := rfl
@[simp] theorem State.setRedraw_pc (b : Bool) : (s.setRedraw b).pc = s.pc := rfl
@[simp] theorem State.setRedraw_stack (b : Bool) : (s.setRedraw b).stack = s.stack := rfl
@[simp] theorem State.setRedraw_dt (b : Bool) : (s.setRedraw b).dt = s.dt := rfl
@[simp] theorem State.setRedraw_st (b : Bool) : (s.setRedraw b).st = s.st := rfl
@[simp] theorem State.setRedraw_key (b : Bool) : (s.setRedraw b).key = s.key := rfl
@[simp] theorem State.setRedraw_fb (b : Bool) : (s.setRedraw b).fb = s.fb := rfl
@[simp] theorem State.setRedraw_redraw (b : Bool) : (s.setRedraw b).redraw = b := rfl
@[simp] theorem State.setRedraw_wait (b : Bool) : (s.setRedraw b).wait = s.wait := rfl
@[simp] theorem State.setRedraw_klatch (b : Bool) : (s.setRedraw b).klatch = s.klatch := rfl
@[simp] theorem State.setRedraw_draws (b : Bool) : (s.setRedraw b).draws = s.draws := rfl

/-! ### setWait -/
@[simp] theorem State.setWait_mem (b : Bool) : (s.setWait b).mem = s.mem := rfl
@[simp] theorem State.setWait_v (b : Bool) : (s.setWait b).v = s.v := rfl
@[simp] theorem State.setWait_i (b : Bool) : (s.setWait b).i = s.i := rfl
@[simp] theorem State.setWait_pc (b : Bool) : (s.setWait b).pc = s.pc := rfl
@[simp] theorem State.setWait_stack (b : Bool) : (s.setWait b).stack = s.stack := rfl
@[simp] theorem State.setWait_dt (b : Bool) : (s.setWait b).dt = s.dt := rfl
@[simp] theorem State.setWait_st (b : Bool) : (s.setWait b).st = s.st := rfl
@[simp] theorem State.setWait_key (b : Bool) : (s.setWait b).key = s.key := rfl
@[simp] theorem State.setWait_fb (b : Bool) : (s.setWait b).fb = s.fb := rfl
@[simp] theorem State.setWait_redraw (b : Bool) : (s.setWait b).redraw = s.redraw := rfl
@[simp] theorem State.setWait_wait (b : Bool) : (s.setWait b).wait = b := rfl
@[simp] theorem State.setWait_klatch (b : Bool) : (s.setWait b).klatch = s.klatch := rfl
@[simp] theorem State.setWait_draws (b : Bool) : (s.setWait b).draws = s.draws := rfl

/-! ### setKlatch -/
@[simp] theorem State.setKlatch_mem (k : BitVec 16) : (s.setKlatch k).mem = s.mem := rfl
@[simp] theorem State.setKlatch_v (k : BitVec 16) : (s.setKlatch k).v = s.v := rfl
@[simp] theorem State.setKlatch_i (k : BitVec 16) : (s.setKlatch k).i = s.i := rfl
@[simp] theorem State.setKlatch_pc (k : BitVec 16) : (s.setKlatch k).pc = s.pc := rfl
@[simp] theorem State.setKlatch_stack (k : BitVec 16) : (s.setKlatch k).stack = s.stack := rfl
@[simp] theorem State.setKlatch_dt (k : BitVec 16) : (s.setKlatch k).dt = s.dt := rfl
@[simp] theorem State.setKlatch_st (k : BitVec 16) : (s.setKlatch k).st = s.st := rfl
@[simp] theorem State.setKlatch_key (k : BitVec 16) : (s.setKlatch k).key = s.key := rfl
@[simp] theorem State.setKlatch_fb (k : BitVec 16) : (s.setKlatch k).fb = s.fb := rfl
@[simp] theorem State.setKlatch_redraw (k : BitVec 16) : (s.setKlatch k).redraw = s.redraw := rfl
@[simp] theorem State.setKlatch_wait (k : BitVec 16) : (s.setKlatch k).wait = s.wait := rfl
@[simp] theorem State.setKlatch_klatch (k : BitVec 16) : (s.setKlatch k).klatch = k := rfl
@[simp] theorem State.setKlatch_draws (k : BitVec 16) : (s.setKlatch k).draws = s.draws := rfl

/-! ### setDraws -/
@[simp] theorem State.setDraws_mem (n : Nat) : (s.setDraws n).mem = s.mem := rfl
@[simp] theorem State.setDraws_v (n : Nat) : (s.setDraws n).v = s.v := rfl
@[simp] theorem State.setDraws_i (n : Nat) : (s.setDraws n).i = s.i := rfl
@[simp] theorem State.setDraws_pc (n : Nat) : (s.setDraws n).pc = s.pc := rfl
@[simp] theorem State.setDraws_stack (n : Nat) : (s.setDraws n).stack = s.stack := rfl
@[simp] theorem State.setDraws_dt (n : Nat) : (s.setDraws n).dt = s.dt := rfl
@[simp] theorem State.setDraws_st (n : Nat) : (s.setDraws n).st = s.st := rfl
@[simp] theorem State.setDraws_key (n : Nat) : (s.setDraws n).key = s.key := rfl
@[simp] theorem State.setDraws_fb (n : Nat) : (s.setDraws n).fb = s.fb := rfl
@[simp] theorem State.setDraws_redraw (n : Nat) : (s.setDraws n).redraw = s.redraw := rfl
@[simp] theorem State.setDraws_wait (n : Nat) : (s.setDraws n).wait = s.wait := rfl
@[simp] theorem State.setDraws_klatch (n : Nat) : (s.setDraws n).klatch = s.klatch := rfl
@[simp] theorem State.setDraws_draws (n : Nat) : (s.setDraws n).draws = n := rfl

/-! ### Composite updates -/

@[simp] theorem State.setV_mem (x : RegNum) (b : Byte) : (s.setV x b).mem = s.mem := rfl
@[simp] theorem State.setV_i (x : RegNum) (b : Byte) : (s.setV x b).i = s.i := rfl
@[simp] theorem State.setV_pc (x : RegNum) (b : Byte) : (s.setV x b).pc = s.pc := rfl
@[simp] theorem State.setV_stack (x : RegNum) (b : Byte) : (s.setV x b).stack = s.stack := rfl
@[simp] theorem State.setV_dt (x : RegNum) (b : Byte) : (s.setV x b).dt = s.dt := rfl
@[simp] theorem State.setV_st (x : RegNum) (b : Byte) : (s.setV x b).st = s.st := rfl
@[simp] theorem State.setV_key (x : RegNum) (b : Byte) : (s.setV x b).key = s.key := rfl
@[simp] theorem State.setV_fb (x : RegNum) (b : Byte) : (s.setV x b).fb = s.fb := rfl
@[simp] theorem State.setV_redraw (x : RegNum) (b : Byte) : (s.setV x b).redraw = s.redraw := rfl
@[simp] theorem State.setV_wait (x : RegNum) (b : Byte) : (s.setV x b).wait = s.wait := rfl
@[simp] theorem State.setV_klatch (x : RegNum) (b : Byte) : (s.setV x b).klatch = s.klatch := rfl
@[simp] theorem State.setV_draws (x : RegNum) (b : Byte) : (s.setV x b).draws = s.draws := rfl
@[simp] theorem State.setFlagThenV_mem (x : RegNum) (g b : Byte) : (s.setFlagThenV x g b).mem = s.mem := rfl
@[simp] theorem State.setFlagThenV_i (x : RegNum) (g b : Byte) : (s.setFlagThenV x g b).i = s.i := rfl
@[simp] theorem State.setFlagThenV_pc (x : RegNum) (g b : Byte) : (s.setFlagThenV x g b).pc = s.pc := rfl
@[simp] theorem State.setFlagThenV_stack (x : RegNum) (g b : Byte) : (s.setFlagThenV x g b).stack = s.stack := rfl
@[simp] theorem State.setFlagThenV_dt (x : RegNum) (g b : Byte) : (s.setFlagThenV x g b).dt = s.dt := rfl
@[simp] theorem State.setFlagThenV_st (x : RegNum) (g b : Byte) : (s.setFlagThenV x g b).st = s.st := rfl
@[simp] theorem State.setFlagThenV_key (x : RegNum) (g b : Byte) : (s.setFlagThenV x g b).key = s.key := rfl
@[simp] theorem State.setFlagThenV_fb (x : RegNum) (g b : Byte) : (s.setFlagThenV x g b).fb = s.fb := rfl
@[simp] theorem State.setFlagThenV_redraw (x : RegNum) (g b : Byte) : (s.setFlagThenV x g b).redraw = s.redraw := rfl
@[simp] theorem State.setFlagThenV_wait (x : RegNum) (g b : Byte) : (s.setFlagThenV x g b).wait = s.wait := rfl
@[simp] theorem State.setFlagThenV_klatch (x : RegNum) (g b : Byte) : (s.setFlagThenV x g b).klatch = s.klatch := rfl
@[simp] theorem State.setFlagThenV_draws (x : RegNum) (g b : Byte) : (s.setFlagThenV x g b).draws = s.draws := rfl
@[simp] theorem State.advance_mem : (s.advance).mem = s.mem := rfl
@[simp] theorem State.advance_v : (s.advance).v = s.v := rfl
@[simp] theorem State.advance_i : (s.advance).i = s.i := rfl
@[simp] theorem State.advance_stack : (s.advance).stack = s.stack := rfl
@[simp] theorem State.advance_dt : (s.advance).dt = s.dt := rfl
@[simp] theorem State.advance_st : (s.advance).st = s.st := rfl
@[simp] theorem State.advance_key : (s.advance).key = s.key := rfl
@[simp] theorem State.advance_fb : (s.advance).fb = s.fb := rfl
@[simp] theorem State.advance_redraw : (s.advance).redraw = s.redraw := rfl
@[simp] theorem State.advance_wait : (s.advance).wait = s.wait := rfl
@[simp] theorem State.advance_klatch : (s.advance).klatch = s.klatch := rfl
@[simp] theorem State.advance_draws : (s.advance).draws = s.draws := rfl
@[simp] theorem State.push_mem (a : PcWord) : (s.push a).mem = s.mem := rfl
@[simp] theorem State.push_v (a : PcWord) : (s.push a).v = s.v := rfl
@[simp] theorem State.push_i (a : PcWord) : (s.push a).i = s.i := rfl
@[simp] theorem State.push_pc (a : PcWord) : (s.push a).pc = s.pc := rfl
@[simp] theorem State.push_dt (a : PcWord) : (s.push a).dt = s.dt := rfl
@[simp] theorem State.push_st (a : PcWord) : (s.push a).st = s.st := rfl
@[simp] theorem State.push_key (a : PcWord) : (s.push a).key = s.key := rfl
@[simp] theorem State.push_fb (a : PcWord) : (s.push a).fb = s.fb := rfl
@[simp] theorem State.push_redraw (a : PcWord) : (s.push a).redraw = s.redraw := rfl
@[simp] theorem State.push_wait (a : PcWord) : (s.push a).wait = s.wait := rfl
@[simp] theorem State.push_klatch (a : PcWord) : (s.push a).klatch = s.klatch := rfl
@[simp] theorem State.push_draws (a : PcWord) : (s.push a).draws = s.draws := rfl
@[simp] theorem State.pop_mem : (s.pop).mem = s.mem := rfl
@[simp] theorem State.pop_v : (s.pop).v = s.v := rfl
@[simp] theorem State.pop_i : (s.pop).i = s.i := rfl
@[simp] theorem State.pop_pc : (s.pop).pc = s.pc := rfl
@[simp] theorem State.pop_dt : (s.pop).dt = s.dt := rfl
@[simp] theorem State.pop_st : (s.pop).st = s.st := rfl
@[simp] theorem State.pop_key : (s.pop).key = s.key := rfl
@[simp] theorem State.pop_fb : (s.pop).fb = s.fb := rfl
@[simp] theorem State.pop_redraw : (s.pop).redraw = s.redraw := rfl
@[simp] theorem State.pop_wait : (s.pop).wait = s.wait := rfl
@[simp] theorem State.pop_klatch : (s.pop).klatch = s.klatch := rfl
@[simp] theorem State.pop_draws : (s.pop).draws = s.draws := rfl
@[simp] theorem State.nextDraw_mem : (s.nextDraw).mem = s.mem := rfl
@[simp] theorem State.nextDraw_v : (s.nextDraw).v = s.v := rfl
@[simp] theorem State.nextDraw_i : (s.nextDraw).i = s.i := rfl
@[simp] theorem State.nextDraw_pc : (s.nextDraw).pc = s.pc := rfl
@[simp] theorem State.nextDraw_stack : (s.nextDraw).stack = s.stack := rfl
@[simp] theorem State.nextDraw_dt : (s.nextDraw).dt = s.dt := rfl
@[simp] theorem State.nextDraw_st : (s.nextDraw).st = s.st := rfl
@[simp] theorem State.nextDraw_key : (s.nextDraw).key = s.key := rfl
@[simp] theorem State.nextDraw_fb : (s.nextDraw).fb = s.fb := rfl
@[simp] theorem State.nextDraw_redraw : (s.nextDraw).redraw = s.redraw := rfl
@[simp] theorem State.nextDraw_wait : (s.nextDraw).wait = s.wait := rfl
@[simp] theorem State.nextDraw_klatch : (s.nextDraw).klatch = s.klatch := rfl
@[simp] theorem State.advance_pc : s.advance.pc = s.pc + 2 := rfl
@[simp] theorem State.push_stack (a : PcWord) : (s.push a).stack = s.stack ++ [a] := rfl
@[simp] theorem State.pop_stack : s.pop.stack = s.stack.dropLast := rfl
@[simp] theorem State.nextDraw_draws : s.nextDraw.draws = s.draws + 1 := rfl
@[simp] theorem State.beginWait_wait : s.beginWait.wait = true := rfl
@[simp] theorem State.beginWait_klatch : s.beginWait.klatch = s.key := rfl
@[simp] theorem State.beginWait_mem : s.beginWait.mem = s.mem := rfl
@[simp] theorem State.beginWait_v : s.beginWait.v = s.v := rfl
@[simp] theorem State.beginWait_i : s.beginWait.i = s.i := rfl
@[simp] theorem State.beginWait_pc : s.beginWait.pc = s.pc := rfl
@[simp] theorem State.beginWait_stack : s.beginWait.stack = s.stack := rfl
@[simp] theorem State.beginWait_dt : s.beginWait.dt = s.dt := rfl
@[simp] theorem State.beginWait_st : s.beginWait.st = s.st := rfl
@[simp] theorem State.beginWait_key : s.beginWait.key = s.key := rfl
@[simp] theorem State.beginWait_fb : s.beginWait.fb = s.fb := rfl
@[simp] theorem State.beginWait_redraw : s.beginWait.redraw = s.redraw := rfl
@[simp] theorem State.beginWait_draws : s.beginWait.draws = s.draws := rfl
@[simp] theorem State.skipIf_mem (c : Bool) : (s.skipIf c).mem = s.mem := by cases c <;> rfl
@[simp] theorem State.skipIf_v (c : Bool) : (s.skipIf c).v = s.v := by cases c <;> rfl
@[simp] theorem State.skipIf_i (c : Bool) : (s.skipIf c).i = s.i := by cases c <;> rfl
@[simp] theorem State.skipIf_stack (c : Bool) : (s.skipIf c).stack = s.stack := by cases c <;> rfl
@[simp] theorem State.skipIf_dt (c : Bool) : (s.skipIf c).dt = s.dt := by cases c <;> rfl
@[simp] theorem State.skipIf_st (c : Bool) : (s.skipIf c).st = s.st := by cases c <;> rfl
@[simp] theorem State.skipIf_key (c : Bool) : (s.skipIf c).key = s.key := by cases c <;> rfl
@[simp] theorem State.skipIf_fb (c : Bool) : (s.skipIf c).fb = s.fb := by cases c <;> rfl
@[simp] theorem State.skipIf_redraw (c : Bool) : (s.skipIf c).redraw = s.redraw := by cases c <;> rfl
@[simp] theorem State.skipIf_wait (c : Bool) : (s.skipIf c).wait = s.wait := by cases c <;> rfl
@[simp] theorem State.skipIf_klatch (c : Bool) : (s.skipIf c).klatch = s.klatch := by cases c <;> rfl
@[simp] theorem State.skipIf_draws (c : Bool) : (s.skipIf c).draws = s.draws := by cases c <;> rfl

/-- A skip goes 4 forward when its condition holds and 2 otherwise (40_control_flow.md R108). -/
@[simp] theorem State.skipIf_pc (c : Bool) : (s.skipIf c).pc = s.pc + if c then 4 else 2 := by cases c <;> rfl

/-! ### Reading a register -/

/-- V reads as before wherever the register file is as before. -/
theorem State.getV_congr {s t : State} (h : t.v = s.v) (x : RegNum) : t.getV x = s.getV x := by
  simp only [State.getV, h]

@[simp] theorem State.setMem_getV (m : Memory) (x : RegNum) : (s.setMem m).getV x = s.getV x := rfl
@[simp] theorem State.setI_getV (a : Addr) (x : RegNum) : (s.setI a).getV x = s.getV x := rfl
@[simp] theorem State.setPc_getV (a : PcWord) (x : RegNum) : (s.setPc a).getV x = s.getV x := rfl
@[simp] theorem State.setStack_getV (k : List PcWord) (x : RegNum) : (s.setStack k).getV x = s.getV x := rfl
@[simp] theorem State.setDt_getV (b : Byte) (x : RegNum) : (s.setDt b).getV x = s.getV x := rfl
@[simp] theorem State.setSt_getV (b : Byte) (x : RegNum) : (s.setSt b).getV x = s.getV x := rfl
@[simp] theorem State.setKey_getV (k : BitVec 16) (x : RegNum) : (s.setKey k).getV x = s.getV x := rfl
@[simp] theorem State.setFb_getV (f : FrameBuffer) (x : RegNum) : (s.setFb f).getV x = s.getV x := rfl
@[simp] theorem State.setRedraw_getV (b : Bool) (x : RegNum) : (s.setRedraw b).getV x = s.getV x := rfl
@[simp] theorem State.setWait_getV (b : Bool) (x : RegNum) : (s.setWait b).getV x = s.getV x := rfl
@[simp] theorem State.setKlatch_getV (k : BitVec 16) (x : RegNum) : (s.setKlatch k).getV x = s.getV x := rfl
@[simp] theorem State.setDraws_getV (n : Nat) (x : RegNum) : (s.setDraws n).getV x = s.getV x := rfl
@[simp] theorem State.advance_getV (x : RegNum) : s.advance.getV x = s.getV x := rfl
@[simp] theorem State.skipIf_getV (c : Bool) (x : RegNum) : (s.skipIf c).getV x = s.getV x := by cases c <;> rfl
@[simp] theorem State.push_getV (a : PcWord) (x : RegNum) : (s.push a).getV x = s.getV x := rfl
@[simp] theorem State.pop_getV (x : RegNum) : s.pop.getV x = s.getV x := rfl
@[simp] theorem State.nextDraw_getV (x : RegNum) : s.nextDraw.getV x = s.getV x := rfl
@[simp] theorem State.beginWait_getV (x : RegNum) : s.beginWait.getV x = s.getV x := rfl

/-- A register reads what was last written to it, and a write leaves every other register alone (10_state.md R21). -/
theorem State.getV_setV (x y : RegNum) (b : Byte) : (s.setV x b).getV y = if y = x then b else s.getV y := by
  simp only [State.getV, State.setV, State.setRegs, Vector.getElem_set]
  by_cases h : y = x
  · simp [h]
  · have : ¬ x.toNat = y.toNat := fun e => h (BitVec.eq_of_toNat_eq e.symm)
    simp [h, this]

@[simp] theorem State.getV_setV_self (x : RegNum) (b : Byte) : (s.setV x b).getV x = b := by simp [State.getV_setV]

/-- A write to another register does not change what a register reads. -/
theorem State.getV_setV_ne {x y : RegNum} (b : Byte) (h : y ≠ x) : (s.setV x b).getV y = s.getV y := by
  simp [State.getV_setV, h]

/-- VF then V[x]: with x = 15 the result stands (41_load_alu.md R131). -/
theorem State.getV_setFlagThenV (x y : RegNum) (g b : Byte) :
    (s.setFlagThenV x g b).getV y = if y = x then b else if y = vf then g else s.getV y := by
  simp [State.setFlagThenV, State.getV_setV]

/-! ### Reading a pixel -/

@[simp] theorem State.pixel_setFb (f : FrameBuffer) (p : Nat) : (s.setFb f).pixel p = pixelOf f p := rfl

/-- A pixel reads as before wherever the frame buffer is as before. -/
theorem State.pixel_congr {s t : State} (h : t.fb = s.fb) (p : Nat) : t.pixel p = s.pixel p := by
  simp only [State.pixel, h]

end Sys2Proof.Machine
end

