-- ==== Sys2Proof/Laws/Display.lean ====
section
/-! SUPPORT. What drawing does, said once: a sprite is a list of pixels, each flipped once (43_display.md R164). -/

namespace Sys2Proof.Machine

/-- Flipping a pixel changes that pixel and no other. -/
theorem pixelOf_plot (c : Canvas) {p q : Nat} (hq : q < 2048) :
    pixelOf (plot c p).fb q = (pixelOf c.fb q ^^ decide (q = p)) := by
  show pixelOf (flipPixel c.fb p) q = _
  simp only [flipPixel, pixelOf, rowOf, Config.fbWidth, Vector.getElem?_setIfInBounds]
  have hrow : q / 64 < 32 := by omega
  by_cases hr : p / 64 = q / 64
  · rw [if_pos hr, hr, if_pos hrow, Option.getD_some, BitVec.getLsbD_xor]
    congr 1
    have hcol : q % 64 < 64 := by omega
    by_cases h : q = p
    · subst h; simp [hcol]
    · rcases Nat.lt_or_ge (q % 64) (p % 64) with h2 | h2
      · simp [h, h2]
      · have : ¬ q % 64 - p % 64 = 0 := by omega
        simp [h, hcol, this]
  · have : ¬ q = p := fun e => hr (by rw [e])
    rw [if_neg hr]
    simp [this]

/-- Two frame buffers with the same 2048 pixels are equal. -/
theorem fb_eq_of_pixels {f g : FrameBuffer} (h : ∀ p < 2048, pixelOf f p = pixelOf g p) : f = g := by
  apply Vector.ext
  intro r hr
  apply BitVec.eq_of_getLsbD_eq
  intro c hc
  have := h (r * 64 + c) (by omega)
  have e1 : (r * 64 + c) / 64 = r := by omega
  have e2 : (r * 64 + c) % 64 = c := by omega
  simpa [pixelOf, rowOf, e1, e2, hr] using this

/-- A blank frame buffer has every pixel 0 (43_display.md R160). -/
@[simp] theorem pixelOf_blankFb (p : Nat) : pixelOf blankFb p = false := by
  unfold pixelOf rowOf blankFb
  rw [Vector.getElem?_replicate]
  split <;> simp

theorem hit_plot (c : Canvas) (p : Nat) : (plot c p).hit = (c.hit || pixelOf c.fb p) := rfl

/-- Flipping a list of distinct pixels: each listed pixel is flipped, no other changes, and a collision is seen exactly where a
listed pixel was 1 before. -/
theorem foldl_plot {ps : List Nat} (hnd : ps.Nodup) (hlt : ∀ p ∈ ps, p < 2048) (c : Canvas) :
    (∀ q < 2048, pixelOf (ps.foldl plot c).fb q = (pixelOf c.fb q ^^ decide (q ∈ ps))) ∧
    (ps.foldl plot c).hit = (c.hit || ps.any (pixelOf c.fb)) := by
  induction ps generalizing c with
  | nil => simp
  | cons p ps ih =>
    obtain ⟨hp, hnd'⟩ := List.nodup_cons.1 hnd
    obtain ⟨h1, h2⟩ := ih hnd' (fun q hq => hlt q (List.mem_cons_of_mem _ hq)) (plot c p)
    refine ⟨fun q hq => ?_, ?_⟩
    · rw [List.foldl_cons, h1 q hq, pixelOf_plot c hq]
      by_cases hqp : q = p
      · subst hqp; simp [hp]
      · simp [hqp]
    · rw [List.foldl_cons, h2, hit_plot]
      have : ps.any (pixelOf (plot c p).fb) = ps.any (pixelOf c.fb) := by
        rw [Bool.eq_iff_iff, List.any_eq_true, List.any_eq_true]
        refine exists_congr fun q => and_congr_right fun hq => ?_
        rw [pixelOf_plot c (hlt q (List.mem_cons_of_mem _ hq))]
        have : ¬ q = p := fun e => hp (e ▸ hq)
        simp [this]
      rw [this, List.any_cons, Bool.or_assoc]

/-- The pixels of one sprite row, in drawing order. -/
def rowPixels (x y row : Nat) (b : Byte) : List Nat := (spriteColumns.filter (spriteBit b)).map (pixelIndex x y row)

/-- The pixels of a sprite from row number `row` on, in drawing order. -/
def spritePixels (x y : Nat) : Nat → List Byte → List Nat
  | _, [] => []
  | row, b :: bs => rowPixels x y row b ++ spritePixels x y (row + 1) bs

theorem drawRow_eq (x y row : Nat) (b : Byte) (c : Canvas) : drawRow x y row b c = (rowPixels x y row b).foldl plot c := by
  unfold drawRow rowPixels
  generalize spriteColumns = cols
  induction cols generalizing c with
  | nil => rfl
  | cons k ks ih =>
    by_cases h : spriteBit b k = true <;> simp [h, ih]

theorem drawRows_eq (x y row : Nat) (bs : List Byte) (c : Canvas) :
    drawRows x y row bs c = (spritePixels x y row bs).foldl plot c := by
  induction bs generalizing row c with
  | nil => rfl
  | cons b bs ih => simp [drawRows, spritePixels, ih, drawRow_eq]

theorem mem_spriteColumns {col : Nat} : col ∈ spriteColumns ↔ col < 8 := by simp [spriteColumns]; omega

theorem mem_rowPixels {x y row : Nat} {b : Byte} {p : Nat} :
    p ∈ rowPixels x y row b ↔ ∃ col < 8, b.getLsbD (7 - col) = true ∧ p = pixelIndex x y row col := by
  simp only [rowPixels, List.mem_map, List.mem_filter, mem_spriteColumns, spriteBit]
  constructor
  · rintro ⟨col, ⟨h1, h2⟩, rfl⟩; exact ⟨col, h1, h2, rfl⟩
  · rintro ⟨col, h1, h2, rfl⟩; exact ⟨col, ⟨h1, h2⟩, rfl⟩

/-- Which pixels a sprite covers: those under a bit that is 1 (43_display.md R161). -/
theorem mem_spritePixels {x y row : Nat} {bs : List Byte} {p : Nat} :
    p ∈ spritePixels x y row bs ↔
      ∃ k < bs.length, ∃ col < 8, (bs.getD k 0).getLsbD (7 - col) = true ∧ p = pixelIndex x y (row + k) col := by
  induction bs generalizing row with
  | nil => simp [spritePixels]
  | cons b bs ih =>
    rw [spritePixels, List.mem_append, mem_rowPixels, ih]
    constructor
    · rintro (⟨col, h1, h2, rfl⟩ | ⟨k, hk, col, h1, h2, rfl⟩)
      · exact ⟨0, by simp, col, h1, by simpa using h2, by simp⟩
      · refine ⟨k + 1, by simpa using hk, col, h1, by simpa using h2, ?_⟩
        congr 1; omega
    · rintro ⟨k, hk, col, h1, h2, rfl⟩
      cases k with
      | zero => exact .inl ⟨col, h1, by simpa using h2, by simp⟩
      | succ k =>
        refine .inr ⟨k, by simpa using hk, col, h1, by simpa using h2, ?_⟩
        congr 1; omega

theorem pixelIndex_lt (x y row col : Nat) : pixelIndex x y row col < 2048 := by
  unfold pixelIndex Config.fbHeight Config.fbWidth
  omega

/-- Distinct rows and columns of a sprite land on distinct pixels (43_display.md R164). -/
theorem pixelIndex_inj {x y row row' col col' : Nat} (h : pixelIndex x y row col = pixelIndex x y row' col')
    (hr : row < 32) (hr' : row' < 32) (hc : col < 64) (hc' : col' < 64) : row = row' ∧ col = col' := by
  unfold pixelIndex Config.fbHeight Config.fbWidth at h
  omega

theorem nodup_rowPixels (x y row : Nat) (b : Byte) (hr : row < 32) : (rowPixels x y row b).Nodup := by
  unfold rowPixels
  refine List.Nodup.map_on ?_ (List.Nodup.filter _ (by decide))
  intro c hc d hd h
  have hc' := mem_spriteColumns.1 (List.mem_filter.1 hc).1
  have hd' := mem_spriteColumns.1 (List.mem_filter.1 hd).1
  exact (pixelIndex_inj h hr hr (by omega) (by omega)).2

/-- Each pixel is touched at most once (43_display.md R164). -/
theorem nodup_spritePixels (x y row : Nat) (bs : List Byte) (h : row + bs.length ≤ 32) : (spritePixels x y row bs).Nodup := by
  induction bs generalizing row with
  | nil => simp [spritePixels]
  | cons b bs ih =>
    simp only [List.length_cons] at h
    rw [spritePixels, List.nodup_append']
    refine ⟨nodup_rowPixels x y row b (by omega), ih (row + 1) (by omega), fun p hp hp' => ?_⟩
    obtain ⟨col, hcol, -, rfl⟩ := mem_rowPixels.1 hp
    obtain ⟨k, hk, col', hcol', -, he⟩ := mem_spritePixels.1 hp'
    have := (pixelIndex_inj he (by omega) (by omega) (by omega) (by omega)).1
    omega

/-- What a drawn sprite does to the frame buffer and whether it collides, from the buffer before (43_display.md R164). -/
theorem drawSprite_spec (x y : Nat) (bs : List Byte) (h : bs.length ≤ 32) (f : FrameBuffer) :
    (∀ q < 2048, pixelOf (drawSprite x y bs f).fb q = (pixelOf f q ^^ decide (q ∈ spritePixels x y 0 bs))) ∧
    (drawSprite x y bs f).hit = (spritePixels x y 0 bs).any (pixelOf f) := by
  have hnd := nodup_spritePixels x y 0 bs (by omega)
  have hlt : ∀ p ∈ spritePixels x y 0 bs, p < 2048 := fun p hp => by
    obtain ⟨k, -, col, -, -, rfl⟩ := mem_spritePixels.1 hp
    exact pixelIndex_lt _ _ _ _
  have := foldl_plot hnd hlt { fb := f, hit := false }
  simpa [drawSprite, drawRows_eq] using this

end Sys2Proof.Machine
end

