-- ==== Sys2Proof/Laws/Encoding.lean ====
section
/-! SUPPORT. What the three word shapes are made of (30_encoding.md R71, R72): the fields read back from a word, a word put
together from its fields, and a word under each mask of the opcode map. -/

namespace Sys2Proof

/-- Concatenation as a number: the left part above the right one. -/
theorem toNat_concat {m n : Nat} (a : BitVec m) (b : BitVec n) : (a ++ b).toNat = a.toNat * 2 ^ n + b.toNat := by
  rw [BitVec.toNat_append, ← Nat.shiftLeft_add_eq_or_of_lt b.isLt, Nat.shiftLeft_eq]

theorem toNat_wordX (op : BitVec 4) (x : RegNum) (sub : Byte) :
    (wordX op x sub).toNat = (op.toNat * 16 + x.toNat) * 256 + sub.toNat := by
  show (op ++ x ++ sub).toNat = _
  simp only [toNat_concat, Nat.reducePow]

theorem toNat_wordXYN (op : BitVec 4) (x y : RegNum) (n : BitVec 4) :
    (wordXYN op x y n).toNat = ((op.toNat * 16 + x.toNat) * 16 + y.toNat) * 16 + n.toNat := by
  show (op ++ x ++ y ++ n).toNat = _
  simp only [toNat_concat, Nat.reducePow]

theorem toNat_wordNNN (op : BitVec 4) (nnn : Addr) : (wordNNN op nnn).toNat = op.toNat * 4096 + nnn.toNat := by
  show (op ++ nnn).toNat = _
  simp only [toNat_concat, Nat.reducePow]

/-! ## Fields as numbers -/

theorem toNat_fieldOp (w : Opcode) : (fieldOp w).toNat = w.toNat / 4096 % 16 := by
  simp [fieldOp, Nat.shiftRight_eq_div_pow]
theorem toNat_fieldX (w : Opcode) : (fieldX w).toNat = w.toNat / 256 % 16 := by
  simp [fieldX, Nat.shiftRight_eq_div_pow]
theorem toNat_fieldY (w : Opcode) : (fieldY w).toNat = w.toNat / 16 % 16 := by
  simp [fieldY, Nat.shiftRight_eq_div_pow]
theorem toNat_fieldN (w : Opcode) : (fieldN w).toNat = w.toNat % 16 := by simp [fieldN]
theorem toNat_fieldNN (w : Opcode) : (fieldNN w).toNat = w.toNat % 256 := by simp [fieldNN]
theorem toNat_fieldNNN (w : Opcode) : (fieldNNN w).toNat = w.toNat % 4096 := by simp [fieldNNN]

/-! ## The fields of a word put together -/

section
variable (op : BitVec 4) (x y : RegNum) (n : BitVec 4) (sub : Byte) (nnn : Addr)

@[simp] theorem fieldOp_wordX : fieldOp (wordX op x sub) = op := by
  have := op.isLt; have := x.isLt; have := sub.isLt
  apply BitVec.eq_of_toNat_eq; rw [toNat_fieldOp, toNat_wordX]; omega
@[simp] theorem fieldX_wordX : fieldX (wordX op x sub) = x := by
  have := op.isLt; have := x.isLt; have := sub.isLt
  apply BitVec.eq_of_toNat_eq; rw [toNat_fieldX, toNat_wordX]; omega
@[simp] theorem fieldNN_wordX : fieldNN (wordX op x sub) = sub := by
  have := op.isLt; have := x.isLt; have := sub.isLt
  apply BitVec.eq_of_toNat_eq; rw [toNat_fieldNN, toNat_wordX]; omega
@[simp] theorem fieldOp_wordXYN : fieldOp (wordXYN op x y n) = op := by
  have := op.isLt; have := x.isLt; have := y.isLt; have := n.isLt
  apply BitVec.eq_of_toNat_eq; rw [toNat_fieldOp, toNat_wordXYN]; omega
@[simp] theorem fieldX_wordXYN : fieldX (wordXYN op x y n) = x := by
  have := op.isLt; have := x.isLt; have := y.isLt; have := n.isLt
  apply BitVec.eq_of_toNat_eq; rw [toNat_fieldX, toNat_wordXYN]; omega
@[simp] theorem fieldY_wordXYN : fieldY (wordXYN op x y n) = y := by
  have := op.isLt; have := x.isLt; have := y.isLt; have := n.isLt
  apply BitVec.eq_of_toNat_eq; rw [toNat_fieldY, toNat_wordXYN]; omega
@[simp] theorem fieldN_wordXYN : fieldN (wordXYN op x y n) = n := by
  have := op.isLt; have := x.isLt; have := y.isLt; have := n.isLt
  apply BitVec.eq_of_toNat_eq; rw [toNat_fieldN, toNat_wordXYN]; omega
@[simp] theorem fieldOp_wordNNN : fieldOp (wordNNN op nnn) = op := by
  have := op.isLt; have := nnn.isLt
  apply BitVec.eq_of_toNat_eq; rw [toNat_fieldOp, toNat_wordNNN]; omega
@[simp] theorem fieldNNN_wordNNN : fieldNNN (wordNNN op nnn) = nnn := by
  have := op.isLt; have := nnn.isLt
  apply BitVec.eq_of_toNat_eq; rw [toNat_fieldNNN, toNat_wordNNN]; omega
end

/-! ## A word is its fields put together -/

theorem eq_wordX (w : Opcode) : w = wordX (fieldOp w) (fieldX w) (fieldNN w) := by
  have := w.isLt
  apply BitVec.eq_of_toNat_eq
  rw [toNat_wordX, toNat_fieldOp, toNat_fieldX, toNat_fieldNN]; omega
theorem eq_wordXYN (w : Opcode) : w = wordXYN (fieldOp w) (fieldX w) (fieldY w) (fieldN w) := by
  have := w.isLt
  apply BitVec.eq_of_toNat_eq
  rw [toNat_wordXYN, toNat_fieldOp, toNat_fieldX, toNat_fieldY, toNat_fieldN]; omega
theorem eq_wordNNN (w : Opcode) : w = wordNNN (fieldOp w) (fieldNNN w) := by
  have := w.isLt
  apply BitVec.eq_of_toNat_eq
  rw [toNat_wordNNN, toNat_fieldOp, toNat_fieldNNN]; omega

/-! ## A word under the masks of the opcode map -/

theorem wordNNN_and_op (op : BitVec 4) (nnn : Addr) : wordNNN op nnn &&& 0xF000 = wordNNN op 0 := by
  have h := BitVec.and_append (x₁ := op) (x₂ := BitVec.allOnes 4) (y₁ := nnn) (y₂ := 0#12)
  rw [BitVec.and_allOnes, BitVec.and_zero] at h
  exact h
theorem wordXYN_and_sub (op : BitVec 4) (x y : RegNum) (n : BitVec 4) :
    wordXYN op x y n &&& 0xF00F = wordXYN op 0 0 n := by
  have h := BitVec.and_append (x₁ := op ++ x ++ y) (x₂ := BitVec.allOnes 4 ++ 0#4 ++ 0#4) (y₁ := n) (y₂ := BitVec.allOnes 4)
  refine Eq.trans h ?_
  rw [BitVec.and_append, BitVec.and_append, BitVec.and_allOnes, BitVec.and_zero, BitVec.and_zero, BitVec.and_allOnes]
  rfl
theorem wordX_and_sub (op : BitVec 4) (x : RegNum) (sub : Byte) : wordX op x sub &&& 0xF0FF = wordX op 0 sub := by
  have h := BitVec.and_append (x₁ := op ++ x) (x₂ := BitVec.allOnes 4 ++ 0#4) (y₁ := sub) (y₂ := BitVec.allOnes 8)
  refine Eq.trans h ?_
  rw [BitVec.and_append, BitVec.and_allOnes, BitVec.and_zero, BitVec.and_allOnes]
  rfl

/-- Under mask 0xF000 only the family is left. -/
theorem and_op (w : Opcode) : w &&& 0xF000 = wordNNN (fieldOp w) 0 := by
  conv_lhs => rw [eq_wordNNN w]
  exact wordNNN_and_op _ _
/-- Under mask 0xF00F the family and the low nibble are left. -/
theorem and_nibble (w : Opcode) : w &&& 0xF00F = wordXYN (fieldOp w) 0 0 (fieldN w) := by
  conv_lhs => rw [eq_wordXYN w]
  exact wordXYN_and_sub _ _ _ _
/-- Under mask 0xF0FF the family and the low byte are left. -/
theorem and_byte (w : Opcode) : w &&& 0xF0FF = wordX (fieldOp w) 0 (fieldNN w) := by
  conv_lhs => rw [eq_wordX w]
  exact wordX_and_sub _ _ _

/-! ## Bytes of a word -/

@[simp] theorem wordOfBytes_split (w : Opcode) : wordOfBytes (highByte w) (lowByte w) = w := by
  have := w.isLt
  apply BitVec.eq_of_toNat_eq
  show (highByte w ++ lowByte w).toNat = _
  rw [toNat_concat]
  simp [highByte, lowByte, Nat.shiftRight_eq_div_pow]
  omega

/-! ## What a mask and match pair says of the fields -/

theorem fieldOp_of_and {w v : Opcode} (h : w &&& 0xF000 = v) : fieldOp w = fieldOp v := by
  rw [← h, and_op]; simp
theorem fields_of_and_nibble {w v : Opcode} (h : w &&& 0xF00F = v) : fieldOp w = fieldOp v ∧ fieldN w = fieldN v := by
  rw [← h, and_nibble]; simp
theorem fields_of_and_byte {w v : Opcode} (h : w &&& 0xF0FF = v) : fieldOp w = fieldOp v ∧ fieldNN w = fieldNN v := by
  rw [← h, and_byte]; simp

/-- A family that is none of 0 to 14 is 15. -/
theorem fieldOp_eq_15 {w : Opcode} (h : ∀ k < 15, (fieldOp w).toNat ≠ k) : fieldOp w = 15 := by
  apply BitVec.eq_of_toNat_eq
  have := (fieldOp w).isLt
  have := h (fieldOp w).toNat
  show (fieldOp w).toNat = 15
  omega

/-- Every word has one reading: the encoding of what it decodes to is the word itself (30_encoding.md R74). -/
theorem encode_of_decodeWord {w : Opcode} {i : Instr} (h : decodeWord w = some i) : encode i = w := by
  have hop : ∀ k, (fieldOp w).toNat = k → fieldOp w = BitVec.ofNat 4 k := fun k e => by rw [← e]; simp
  have hn : ∀ k, (fieldN w).toNat = k → fieldN w = BitVec.ofNat 4 k := fun k e => by rw [← e]; simp
  have w1 := eq_wordX w; have w2 := eq_wordXYN w; have w3 := eq_wordNNN w
  unfold decodeWord at h
  split at h
  case h_1 =>
    split at h
    · cases h; symm; assumption
    · split at h
      · cases h; symm; assumption
      · cases h
  case h_9 e =>
    have e' := hop _ e
    unfold decodeFamily8 at h
    split at h <;> first
      | (cases h; done)
      | (rename_i f; have f' := hn _ f; cases h; rw [e', f'] at w2; simp only [encode]; exact w2.symm)
  case h_16 =>
    have e' : fieldOp w = 15 := fieldOp_eq_15 (by intro k hk; interval_cases k <;> assumption)
    unfold decodeFamilyF at h
    rw [e'] at w1
    repeat' split at h
    all_goals first | (cases h; done) | (cases h; rename_i f; rw [f] at w1; exact w1.symm)
  case h_15 e =>
    have e' := hop _ e
    rw [e'] at w1
    repeat' split at h
    all_goals first | (cases h; done) | (cases h; rename_i f; rw [f] at w1; exact w1.symm)
  all_goals (rename_i e; have e' := hop _ e; rw [e'] at w1 w2 w3)
  case h_6 => split at h <;> cases h; rename_i f; rw [f] at w2; exact w2.symm
  case h_10 => split at h <;> cases h; rename_i f; rw [f] at w2; exact w2.symm
  all_goals (cases h; first | exact w1.symm | exact w2.symm | exact w3.symm)

end Sys2Proof
end

