-- ==== Sys2Proof/Laws/Memory.lean ====
section
/-! SUPPORT. The laws of memory: reading what was written, and that every memory operation keeps the canonical form. -/

namespace Sys2Proof.Machine

/-- What `Memory.wfAbove` says of the head and the tail. -/
theorem Memory.wfAbove_cons {lo : Option Nat} {a : Nat} {u : Byte} {m : Memory} :
    Memory.wfAbove lo ((a, u) :: m) = true ↔
      (∀ b, lo = some b → b < a) ∧ a < Config.memSize ∧ u ≠ unlistedByte a ∧ Memory.wfAbove (some a) m = true := by
  cases lo <;> simp [Memory.wfAbove, and_assoc]

/-- A lower bound may be lowered. -/
theorem Memory.wfAbove_mono {lo lo' : Option Nat} {m : Memory} (h : Memory.wfAbove lo m = true)
    (hb : ∀ b, lo' = some b → ∃ c, lo = some c ∧ b ≤ c) : Memory.wfAbove lo' m = true := by
  cases m with
  | nil => cases lo' <;> rfl
  | cons c m =>
    obtain ⟨a, u⟩ := c
    rw [Memory.wfAbove_cons] at h ⊢
    refine ⟨fun b e => ?_, h.2⟩
    obtain ⟨c, hc, hbc⟩ := hb b e
    exact lt_of_le_of_lt hbc (h.1 c hc)

/-- An address at or below the bound is not listed. -/
theorem Memory.read_of_le {m : Memory} {c a : Nat} (h : Memory.wfAbove (some c) m = true) (ha : a ≤ c) :
    m.read a = unlistedByte a := by
  induction m generalizing c with
  | nil => rfl
  | cons e m ih =>
    obtain ⟨b, u⟩ := e
    rw [Memory.wfAbove_cons] at h
    have hcb := h.1 c rfl
    have : ¬ a = b := by omega
    simp only [Memory.read, this, if_false]
    exact ih h.2.2.2 (by omega)

theorem Memory.read_write_above {m : Memory} {lo : Option Nat} (h : Memory.wfAbove lo m = true) (a b : Nat) (u : Byte) :
    (m.write a u).read b = if b = a then u else m.read b := by
  induction m generalizing lo with
  | nil =>
    by_cases hu : u = unlistedByte a
    · by_cases hb : b = a <;> simp [Memory.write, Memory.read, hu, hb]
    · by_cases hb : b = a <;> simp [Memory.write, Memory.read, hu, hb]
  | cons e m ih =>
    obtain ⟨c, w⟩ := e
    rw [Memory.wfAbove_cons] at h
    have tail : ∀ d, d ≤ c → Memory.read m d = unlistedByte d := fun d hd => Memory.read_of_le h.2.2.2 hd
    by_cases h1 : a < c
    · by_cases hu : u = unlistedByte a <;> by_cases hb : b = a
      · subst hb
        have : ¬ b = c := by omega
        simp [Memory.write, Memory.read, h1, hu, this, tail b (by omega)]
      · simp [Memory.write, Memory.read, h1, hu, hb]
      · simp [Memory.write, Memory.read, h1, hu, hb]
      · simp [Memory.write, Memory.read, h1, hu, hb]
    · by_cases h2 : a = c
      · subst h2
        by_cases hu : u = unlistedByte a <;> by_cases hb : b = a
        · subst hb
          simp [Memory.write, hu, tail b (le_refl b)]
        · simp [Memory.write, Memory.read, hu, hb]
        · simp [Memory.write, Memory.read, hu, hb]
        · simp [Memory.write, Memory.read, hu, hb]
      · have hw : Memory.write ((c, w) :: m) a u = (c, w) :: Memory.write m a u := by simp [Memory.write, h1, h2]
        rw [hw]
        by_cases hbc : b = c
        · have : ¬ b = a := by omega
          simp only [Memory.read, hbc, if_true]
          rw [if_neg (by omega)]
        · simp only [Memory.read, hbc, if_false]
          exact ih h.2.2.2

/-- A read after a write gives the byte written there, and the byte that was there before anywhere else. -/
theorem Memory.read_write {m : Memory} (h : m.wf = true) (a b : Nat) (u : Byte) :
    (m.write a u).read b = if b = a then u else m.read b := Memory.read_write_above h a b u

theorem Memory.wfAbove_write {m : Memory} {lo : Option Nat} (h : Memory.wfAbove lo m = true) {a : Nat}
    (ha : a < Config.memSize) (hlo : ∀ b, lo = some b → b < a) (u : Byte) : Memory.wfAbove lo (m.write a u) = true := by
  induction m generalizing lo with
  | nil =>
    by_cases hu : u = unlistedByte a
    · simp only [Memory.write, if_pos hu]; exact h
    · simp only [Memory.write, if_neg hu]
      exact Memory.wfAbove_cons.2 ⟨hlo, ha, hu, rfl⟩
  | cons e m ih =>
    obtain ⟨c, w⟩ := e
    have h' := Memory.wfAbove_cons.1 h
    by_cases h1 : a < c
    · by_cases hu : u = unlistedByte a
      · simp only [Memory.write, if_pos h1, if_pos hu]; exact h
      · simp only [Memory.write, if_pos h1, if_neg hu]
        exact Memory.wfAbove_cons.2 ⟨hlo, ha, hu, Memory.wfAbove_cons.2 ⟨fun b e => by cases e; exact h1, h'.2⟩⟩
    · by_cases h2 : a = c
      · subst h2
        by_cases hu : u = unlistedByte a
        · simp only [Memory.write, if_neg h1, if_true, if_pos hu]
          exact Memory.wfAbove_mono h'.2.2.2 fun b e => ⟨a, rfl, le_of_lt (h'.1 b e)⟩
        · simp only [Memory.write, if_neg h1, if_true, if_neg hu]
          exact Memory.wfAbove_cons.2 ⟨h'.1, ha, hu, h'.2.2.2⟩
      · simp only [Memory.write, if_neg h1, if_neg h2]
        refine Memory.wfAbove_cons.2 ⟨h'.1, h'.2.1, h'.2.2.1, ih h'.2.2.2 fun b e => ?_⟩
        cases e; omega

/-- A write inside memory keeps the canonical form. -/
theorem Memory.wf_write {m : Memory} (h : m.wf = true) {a : Nat} (ha : a < Config.memSize) (u : Byte) :
    (m.write a u).wf = true := Memory.wfAbove_write h ha (fun _ e => nomatch e) u

/-- A block write inside memory keeps the canonical form. -/
theorem Memory.wf_writeBytes {m : Memory} (h : m.wf = true) {a : Nat} {bs : List Byte}
    (ha : a + bs.length ≤ Config.memSize) : (m.writeBytes a bs).wf = true := by
  induction bs generalizing m a with
  | nil => exact h
  | cons b bs ih =>
    simp only [List.length_cons] at ha
    exact ih (Memory.wf_write h (by omega) b) (by omega)

/-- Reset memory is in its canonical form. -/
theorem Memory.wf_reset : State.reset.mem.wf = true := rfl

/-- A read after a block write: the block's byte inside it, the byte that was there before outside it. -/
theorem Memory.read_writeBytes {m : Memory} (h : m.wf = true) {a : Nat} {bs : List Byte}
    (ha : a + bs.length ≤ Config.memSize) (b : Nat) :
    (m.writeBytes a bs).read b = if a ≤ b ∧ b < a + bs.length then bs.getD (b - a) 0 else m.read b := by
  induction bs generalizing m a with
  | nil =>
    have : ¬ (a ≤ b ∧ b < a + ([] : List Byte).length) := by simp
    simp only [Memory.writeBytes, if_neg this]
  | cons u bs ih =>
    simp only [List.length_cons] at ha
    rw [Memory.writeBytes, ih (Memory.wf_write h (by omega) u) (by omega), Memory.read_write h]
    by_cases h1 : b = a
    · subst h1; simp
    · by_cases h2 : a + 1 ≤ b ∧ b < a + 1 + bs.length
      · have h3 : a ≤ b ∧ b < a + (u :: bs).length := by simp only [List.length_cons]; omega
        obtain ⟨k, hk⟩ : ∃ k, b = a + 1 + k := ⟨b - (a + 1), by omega⟩
        rw [if_pos h2, if_pos h3, hk]
        have e1 : a + 1 + k - (a + 1) = k := by omega
        have e2 : a + 1 + k - a = k + 1 := by omega
        simp [e1, e2]
      · have h3 : ¬ (a ≤ b ∧ b < a + (u :: bs).length) := by simp only [List.length_cons]; omega
        rw [if_neg h2, if_neg h3, if_neg h1]

@[simp] theorem Memory.length_readBytes (m : Memory) (a n : Nat) : (m.readBytes a n).length = n := by
  induction n generalizing a with
  | zero => rfl
  | succ n ih => simp [Memory.readBytes, ih]

/-- The k-th byte of a block read is the byte at base + k. -/
theorem Memory.getElem_readBytes (m : Memory) (a n k : Nat) (h : k < (m.readBytes a n).length) :
    (m.readBytes a n)[k] = m.read (a + k) := by
  induction n generalizing a k with
  | zero => simp [Memory.readBytes] at h
  | succ n ih =>
    cases k with
    | zero => rfl
    | succ k =>
      simp only [Memory.readBytes, List.getElem_cons_succ]
      rw [ih]; congr 1; omega

/-- A block load puts the byte at base + k into V[k] for every k below n, and leaves the registers from n on alone. -/
theorem getElem_loadRegs (m : Memory) (a n : Nat) (v : Vector Byte 16) (k : Nat) (hk : k < 16) :
    (loadRegs m a n v)[k] = if k < n then m.read (a + k) else v[k] := by
  induction n with
  | zero => simp [loadRegs]
  | succ n ih =>
    simp only [loadRegs, Vector.getElem_setIfInBounds]
    by_cases h : n = k
    · subst h; simp
    · rw [if_neg h, ih]
      by_cases h2 : k < n
      · rw [if_pos h2, if_pos (by omega)]
      · rw [if_neg h2, if_neg (by omega)]

@[simp] theorem State.length_firstRegs (s : State) (n : Nat) : (s.firstRegs n).length = min n 16 := by
  simp [State.firstRegs]

/-- The k-th of the first n registers is V[k]. -/
theorem State.getD_firstRegs (s : State) (n : Nat) (x : RegNum) (h : x.toNat < n) :
    (s.firstRegs n).getD x.toNat 0 = s.getV x := by
  have hx := regNum_lt x
  have : x.toNat < (s.v.toList.take n).length := by simp; omega
  simp [State.firstRegs, State.getV, List.getD, h, hx]

end Sys2Proof.Machine
end

