-- ==== Sys2Proof/Laws/Ops.lean ====
section
/-! SUPPORT. What each shared operation that can stop can answer, said once: the data-access check, the key skip, the fetch, the
step, the meanings with a fault of their own, and the host's operations. -/

namespace Sys2Proof.Machine

/-! ## The data-access check (20_memory.md R57) -/

/-- A checked access completes exactly when all its bytes lie in memory, with the state the meaning gives. -/
theorem guardAccess_next {c : BoundsCause} {n : Nat} {ins : Instr} {s t u : State} :
    guardAccess c n ins s t = .next u ↔ s.i.toNat + n ≤ Config.memSize ∧ u = t := by
  unfold guardAccess raiseOutOfBounds raise
  split <;> simp_all [eq_comm]

/-- A checked access faults exactly when a byte of it lies past the end; it reports its cause, 0x1000, the opcode and PC. -/
theorem guardAccess_fault {c : BoundsCause} {n : Nat} {ins : Instr} {s t : State} {f : Fault} :
    guardAccess c n ins s t = .fault f ↔
      Config.memSize < s.i.toNat + n ∧ f = .outOfBounds c pastTheEnd (encode ins) s.pc := by
  unfold guardAccess raiseOutOfBounds raise
  split <;> simp_all [eq_comm]

theorem guardAccess_not_refused {c : BoundsCause} {n : Nat} {ins : Instr} {s t : State} {r : Refusal} :
    guardAccess c n ins s t ≠ .refused r := by
  unfold guardAccess raiseOutOfBounds raise
  split <;> simp

/-! ## The key skip (44_keypad_timers.md R176) -/

theorem keySkip_next {ins : Instr} {k : Nat} {c : Bool} {s u : State} :
    keySkip ins k c s = .next u ↔ k ≤ 15 ∧ u = s.skipIf c := by
  unfold keySkip raiseOutOfBounds raise
  split <;> simp_all [eq_comm]

theorem keySkip_fault {ins : Instr} {k : Nat} {c : Bool} {s : State} {f : Fault} :
    keySkip ins k c s = .fault f ↔ 15 < k ∧ f = .outOfBounds .keyIndex k (encode ins) s.pc := by
  unfold keySkip raiseOutOfBounds raise
  split <;> simp_all [eq_comm]

theorem keySkip_not_refused {ins : Instr} {k : Nat} {c : Bool} {s : State} {r : Refusal} : keySkip ins k c s ≠ .refused r := by
  unfold keySkip raiseOutOfBounds raise
  split <;> simp

/-! ## The block load (42_index_memory.md R145) -/

/-- After a block load of n bytes a register below n holds its byte, and the others what they held. -/
theorem State.getV_setRegs_loadRegs (s : State) (m : Memory) (a n : Nat) (k : RegNum) :
    (s.setRegs (loadRegs m a n s.v)).getV k = if k.toNat < n then m.read (a + k.toNat) else s.getV k := by
  simp [State.getV, getElem_loadRegs]

/-! ## Call and return (40_control_flow.md R101, R102) -/

/-- 00EE on a stack whose newest entry is known pops it. -/
theorem exec00EE_of_stack {s : State} {older : List PcWord} {entry : PcWord} (h : s.stack = older ++ [entry]) :
    exec00EE s = .next ((s.setStack older).setPc (entry + 2)) := by
  simp [exec00EE, h, State.pop]

/-- 00EE faults exactly on the empty stack. -/
theorem exec00EE_of_empty {s : State} (h : s.stack = []) : exec00EE s = .fault (.stackUnderflow (encode .op00EE) s.pc) := by
  simp [exec00EE, h, raise]

/-- What 00EE can answer. -/
theorem exec00EE_cases (s : State) :
    (s.stack = [] ∧ exec00EE s = .fault (.stackUnderflow (encode .op00EE) s.pc)) ∨
    ∃ older entry, s.stack = older ++ [entry] ∧ exec00EE s = .next ((s.setStack older).setPc (entry + 2)) := by
  rcases List.eq_nil_or_concat s.stack with h | ⟨older, entry, h⟩
  · exact .inl ⟨h, exec00EE_of_empty h⟩
  · have h' : s.stack = older ++ [entry] := by simpa using h
    exact .inr ⟨older, entry, h', exec00EE_of_stack h'⟩

/-- What 2NNN can answer. -/
theorem exec2NNN_cases (nnn : Addr) (s : State) :
    (16 ≤ s.sp ∧ exec2NNN nnn s = .fault (.stackOverflow (encode (.op2NNN nnn)) s.pc)) ∨
    (s.sp < 16 ∧ exec2NNN nnn s = .next ((s.push s.pc).setPc (jumpTarget nnn))) := by
  by_cases h : 16 ≤ s.sp
  · exact .inl ⟨h, by simp [exec2NNN, h, raise]⟩
  · exact .inr ⟨by omega, by simp [exec2NNN, h]⟩

/-! ## The key wait (44_keypad_timers.md R172) -/

/-- What FX0A can answer: begin the wait, go on waiting, or complete with the lowest changed key. -/
theorem execFX0A_cases (x : RegNum) (s : State) :
    (s.wait = false ∧ execFX0A x s = .next s.beginWait) ∨
    (s.wait = true ∧ changedKeys s.key s.klatch = [] ∧ execFX0A x s = .next s) ∨
    ∃ k ks, s.wait = true ∧ changedKeys s.key s.klatch = k :: ks ∧
      execFX0A x s = .next ((s.setV x (BitVec.ofNat 8 k)).setWait false).advance := by
  unfold execFX0A
  cases hw : s.wait
  · exact .inl ⟨rfl, by simp⟩
  · cases hk : changedKeys s.key s.klatch with
    | nil => exact .inr (.inl ⟨rfl, rfl, by simp⟩)
    | cons k ks => exact .inr (.inr ⟨k, ks, rfl, rfl, by simp⟩)

/-- The changed keys are the keys 0 to 15 whose state differs. -/
theorem mem_changedKeys {now before : BitVec 16} {k : Nat} :
    k ∈ changedKeys now before ↔ k < 16 ∧ now.getLsbD k ≠ before.getLsbD k := by
  have : ∀ k, k ∈ [0, 1, 2, 3, 4, 5, 6, 7, 8, 9, 10, 11, 12, 13, 14, 15] ↔ k < 16 := fun k => by simp; omega
  rw [changedKeys, List.mem_filter, this]
  simp

/-- No key changed exactly when the two key vectors are equal. -/
theorem changedKeys_eq_nil {now before : BitVec 16} : changedKeys now before = [] ↔ now = before := by
  constructor
  · intro h
    apply BitVec.eq_of_getLsbD_eq
    intro k hk
    by_contra hne
    have := mem_changedKeys.2 ⟨hk, hne⟩
    simp [h] at this
  · rintro rfl
    rw [List.eq_nil_iff_forall_not_mem]
    exact fun k hk => (mem_changedKeys.1 hk).2 rfl

/-- The changed keys stand in ascending order. -/
theorem changedKeys_sorted (now before : BitVec 16) : (changedKeys now before).Pairwise (· < ·) :=
  List.Pairwise.filter _ (by decide)

/-! ## Fetch and step (20_memory.md R52; 60_exceptions.md R209, R218) -/

theorem State.canFetch_iff (s : State) : s.canFetch = true ↔ s.pc.toNat ≤ 0xFFE := by
  simp [State.canFetch, Config.memSize]; omega

/-- The fetch gives an instruction exactly when PC is in range and the word there decodes to it. -/
theorem State.fetchInstr_ok {s : State} {i : Instr} :
    s.fetchInstr = .ok i ↔ s.pc.toNat ≤ 0xFFE ∧ decodeWord s.wordAtPc = some i := by
  rw [← s.canFetch_iff]
  unfold State.fetchInstr
  cases s.canFetch <;> cases decodeWord s.wordAtPc <;> simp

/-- The fetch faults out of range, or in range on a word that decodes to nothing. -/
theorem State.fetchInstr_error {s : State} {f : Fault} :
    s.fetchInstr = .error f ↔
      (0xFFE < s.pc.toNat ∧ f = .outOfBounds .fetch s.pc.toNat 0 s.pc) ∨
      (s.pc.toNat ≤ 0xFFE ∧ decodeWord s.wordAtPc = none ∧ f = .unsupportedOpcode s.wordAtPc s.pc) := by
  have h := s.canFetch_iff
  have h' : ¬ s.pc.toNat ≤ 0xFFE ↔ 0xFFE < s.pc.toNat := by omega
  unfold State.fetchInstr
  rw [← h', ← h]
  cases s.canFetch <;> cases decodeWord s.wordAtPc <;> simp [eq_comm]

/-- A step that completes executed the fetched instruction. -/
theorem step_next {s t : State} : step s = .next t ↔ ∃ i, s.fetchInstr = .ok i ∧ exec i s = .next t := by
  unfold step raise
  cases s.fetchInstr <;> simp

/-- A fetch fault is the step's fault. -/
theorem step_of_fetch_fault {s : State} (h : 0xFFF ≤ s.pc.toNat) :
    step s = .fault (.outOfBounds .fetch s.pc.toNat 0 s.pc) := by
  have : s.fetchInstr = .error (.outOfBounds .fetch s.pc.toNat 0 s.pc) := State.fetchInstr_error.2 (.inl ⟨by omega, rfl⟩)
  simp [step, this, raise]

/-- A step faults in its fetch or in the instruction it executes. -/
theorem step_fault {s : State} {f : Fault} :
    step s = .fault f ↔ s.fetchInstr = .error f ∨ ∃ i, s.fetchInstr = .ok i ∧ exec i s = .fault f := by
  unfold step raise
  cases s.fetchInstr <;> simp

theorem step_of_fetchInstr {s : State} {i : Instr} (h : s.fetchInstr = .ok i) : step s = exec i s := by
  simp [step, h]

/-! ## The host's operations -/

theorem stateAfter_of_next {font : FontTable} {op : HostOp} {s t : State} (h : perform font op s = .next t) :
    stateAfter font op s = t := by
  simp [stateAfter, h]

/-- A fault leaves the state as it was (60_exceptions.md R205). -/
theorem stateAfter_of_fault {font : FontTable} {op : HostOp} {s : State} {f : Fault} (h : perform font op s = .fault f) :
    stateAfter font op s = s := by
  simp [stateAfter, h]

theorem runOps_nil (font : FontTable) (s : State) : runOps font [] s = s := rfl

theorem runOps_cons (font : FontTable) (op : HostOp) (ops : List HostOp) (s : State) :
    runOps font (op :: ops) s = runOps font ops (stateAfter font op s) := rfl

theorem runOps_append (font : FontTable) (ops ops' : List HostOp) (s : State) :
    runOps font (ops ++ ops') s = runOps font ops' (runOps font ops s) := by
  simp [runOps]

/-- Reset memory is in its canonical form, whatever FONT is. -/
theorem State.wf_resetWith (font : FontTable) : (State.resetWith font).mem.wf = true :=
  Memory.wf_writeBytes Memory.wf_reset (by simp [Config.fontBase, Config.memSize])

/-- Reset memory: FONT in 0x050 to 0x09F, zero everywhere else (10_state.md R40). -/
theorem State.read_resetWith (font : FontTable) (a : Nat) :
    (State.resetWith font).mem.read a = if h : 0x050 ≤ a ∧ a < 0x050 + 80 then font[a - 0x050] else 0 := by
  show Memory.read (Memory.writeBytes [] Config.fontBase font.toList) a = _
  rw [Memory.read_writeBytes (m := []) rfl (by simp [Config.fontBase, Config.memSize])]
  by_cases h : 0x050 ≤ a ∧ a < 0x050 + 80
  · have h' : Config.fontBase ≤ a ∧ a < Config.fontBase + font.toList.length := by simpa [Config.fontBase] using h
    have hj : a - Config.fontBase < font.toList.length := by simp [Config.fontBase]; omega
    rw [if_pos h', dif_pos h, List.getD_eq_getElem _ _ hj, Vector.getElem_toList]
  · have h' : ¬ (Config.fontBase ≤ a ∧ a < Config.fontBase + font.toList.length) := by simpa [Config.fontBase] using h
    rw [if_neg h', dif_neg h]
    show unlistedByte a = 0
    exact if_neg h

/-- The state `State.reset` is the reset with the default FONT. -/
theorem State.resetWith_defaultFont : State.resetWith defaultFont = State.reset := by decide

/-- What `loadProgram` can answer. -/
theorem loadProgram_cases (font : FontTable) (bytes : List Byte) (s : State) :
    (Config.progMax < bytes.length ∧ loadProgram font bytes s = .fault (.programTooLarge bytes.length)) ∨
    (bytes.length ≤ Config.progMax ∧ loadProgram font bytes s =
      .next ((hostReset font s).setMem ((State.resetWith font).mem.writeBytes Config.progBase bytes))) := by
  by_cases h : Config.progMax < bytes.length
  · exact .inl ⟨h, by simp [loadProgram, h, raise]⟩
  · exact .inr ⟨by omega, by simp [loadProgram, h, hostReset]⟩

/-- A timer counts down by one and stops at zero (60_exceptions.md R221). -/
theorem toNat_countDown (b : Byte) : (countDown b).toNat = b.toNat - 1 := by
  unfold countDown
  split
  · subst b; rfl
  · have : b.toNat ≠ 0 := fun e => ‹¬ b = 0› (BitVec.eq_of_toNat_eq e)
    rw [BitVec.toNat_sub]
    have := b.isLt
    show (2 ^ 8 - 1 + b.toNat) % 2 ^ 8 = _
    omega

end Sys2Proof.Machine
end

