-- ==== Sys2Proof/Laws/Claims.lean ====
section
/-! SUPPORT. Laws of the terms in Safety.lean: which words a mask and match pair decodes, and what a sprite covers. -/

namespace Sys2Proof

open Sys2Proof.Machine

/-! ## Words under a mask -/

theorem decodesAs_of_op {v : Opcode} {ins : Opcode → Instr}
    (h : ∀ w, fieldOp w = fieldOp v → decodeWord w = some (ins w)) : DecodesAs 0xF000 v ins :=
  fun _ hw => h _ (fieldOp_of_and hw)

theorem decodesAs_of_nibble {v : Opcode} {ins : Opcode → Instr}
    (h : ∀ w, fieldOp w = fieldOp v → fieldN w = fieldN v → decodeWord w = some (ins w)) : DecodesAs 0xF00F v ins :=
  fun _ hw => h _ (fields_of_and_nibble hw).1 (fields_of_and_nibble hw).2

theorem decodesAs_of_byte {v : Opcode} {ins : Opcode → Instr}
    (h : ∀ w, fieldOp w = fieldOp v → fieldNN w = fieldNN v → decodeWord w = some (ins w)) : DecodesAs 0xF0FF v ins :=
  fun _ hw => h _ (fields_of_and_byte hw).1 (fields_of_and_byte hw).2

/-! ## Stops -/

/-- An instruction that faults stops its step. -/
theorem stopsWith_of_exec {i : Instr} {s : State} {f : Fault} (h : exec i s = .fault f) : StopsWith i s f := by
  refine ⟨h, fun hf => ?_⟩
  have hs : step s = .fault f := by rw [step_of_fetchInstr hf, h]
  exact ⟨hs, fun font => stateAfter_of_fault (font := font) (op := .step) hs⟩

/-! ## Sprites (43_display.md R161 to R164) -/

/-- The pixels a sprite covers are those its drawing goes through. -/
theorem spriteCovers_iff (s : State) (x y : RegNum) (n : BitVec 4) (p : Nat) :
    SpriteCovers s x y n p ↔ p ∈ spritePixels (s.anchorColumn x) (s.anchorRow y) 0 (s.spriteBytes n) := by
  rw [mem_spritePixels]
  constructor
  · rintro ⟨row, col, h1, h2, h3, rfl⟩
    refine ⟨row, by simpa [State.spriteBytes] using h1, col, h2, ?_, by simp [pixelIndex, State.anchorColumn, State.anchorRow]⟩
    rw [List.getD_eq_getElem _ _ (by simpa [State.spriteBytes] using h1)]
    simpa [State.spriteBytes, Memory.getElem_readBytes, State.base] using h3
  · rintro ⟨row, h1, col, h2, h3, rfl⟩
    rw [List.getD_eq_getElem _ _ h1] at h3
    refine ⟨row, col, by simpa [State.spriteBytes] using h1, h2, ?_, by simp [pixelIndex, State.anchorColumn, State.anchorRow]⟩
    simpa [State.spriteBytes, Memory.getElem_readBytes, State.base] using h3

/-- The frame buffer after a draw: each covered pixel flipped, every other one as it was. -/
theorem pixelOf_drawn (s : State) (x y : RegNum) (n : BitVec 4) (p : Nat) (hp : p < 2048) :
    pixelOf (s.drawn x y n).fb p =
      (s.pixel p ^^ decide (p ∈ spritePixels (s.anchorColumn x) (s.anchorRow y) 0 (s.spriteBytes n))) := by
  have := n.isLt
  exact (drawSprite_spec (s.anchorColumn x) (s.anchorRow y) (s.spriteBytes n) (by simp [State.spriteBytes]; omega) s.fb).1 p hp

/-- A draw collides exactly when a covered pixel was on before it. -/
theorem drawn_hit_iff (s : State) (x y : RegNum) (n : BitVec 4) :
    (s.drawn x y n).hit = true ↔ ∃ p, SpriteCovers s x y n p ∧ s.pixel p = true := by
  have := n.isLt
  have h := (drawSprite_spec (s.anchorColumn x) (s.anchorRow y) (s.spriteBytes n)
    (by simp [State.spriteBytes]; omega) s.fb).2
  rw [State.drawn, h, List.any_eq_true]
  simp only [spriteCovers_iff]; rfl

end Sys2Proof
end

