-- ==== Sys2Proof/Laws/PerInstr.lean ====
section
/-! SUPPORT. The per-instruction family RowMatch: the word of every instruction lies in its row of the opcode map, under the
row's mask and match (30_encoding.md R74, R75), and the row is one of the map's. -/

namespace Sys2Proof.Laws.RowMatch

/-- The encoding of an instruction satisfies `(w AND mask) = match` for the instruction's own row, and the row is in the map. -/
def Statement (i : Instr) : Prop := encode i &&& i.row.mask = i.row.value ∧ i.row ∈ opcodeMap

theorem op00E0 : Statement .op00E0 := ⟨by decide, by decide⟩
theorem op00EE : Statement .op00EE := ⟨by decide, by decide⟩
theorem op1NNN (nnn : Addr) : Statement (.op1NNN nnn) := ⟨wordNNN_and_op _ nnn, of_decide_eq_true rfl⟩
theorem op2NNN (nnn : Addr) : Statement (.op2NNN nnn) := ⟨wordNNN_and_op _ nnn, of_decide_eq_true rfl⟩
theorem op3XNN (x : RegNum) (nn : Byte) : Statement (.op3XNN x nn) := ⟨(and_op _).trans (by simp [encode]; rfl), of_decide_eq_true rfl⟩
theorem op4XNN (x : RegNum) (nn : Byte) : Statement (.op4XNN x nn) := ⟨(and_op _).trans (by simp [encode]; rfl), of_decide_eq_true rfl⟩
theorem op5XY0 (x : RegNum) (y : RegNum) : Statement (.op5XY0 x y) := ⟨wordXYN_and_sub _ x y _, of_decide_eq_true rfl⟩
theorem op6XNN (x : RegNum) (nn : Byte) : Statement (.op6XNN x nn) := ⟨(and_op _).trans (by simp [encode]; rfl), of_decide_eq_true rfl⟩
theorem op7XNN (x : RegNum) (nn : Byte) : Statement (.op7XNN x nn) := ⟨(and_op _).trans (by simp [encode]; rfl), of_decide_eq_true rfl⟩
theorem op8XY0 (x : RegNum) (y : RegNum) : Statement (.op8XY0 x y) := ⟨wordXYN_and_sub _ x y _, of_decide_eq_true rfl⟩
theorem op8XY1 (x : RegNum) (y : RegNum) : Statement (.op8XY1 x y) := ⟨wordXYN_and_sub _ x y _, of_decide_eq_true rfl⟩
theorem op8XY2 (x : RegNum) (y : RegNum) : Statement (.op8XY2 x y) := ⟨wordXYN_and_sub _ x y _, of_decide_eq_true rfl⟩
theorem op8XY3 (x : RegNum) (y : RegNum) : Statement (.op8XY3 x y) := ⟨wordXYN_and_sub _ x y _, of_decide_eq_true rfl⟩
theorem op8XY4 (x : RegNum) (y : RegNum) : Statement (.op8XY4 x y) := ⟨wordXYN_and_sub _ x y _, of_decide_eq_true rfl⟩
theorem op8XY5 (x : RegNum) (y : RegNum) : Statement (.op8XY5 x y) := ⟨wordXYN_and_sub _ x y _, of_decide_eq_true rfl⟩
theorem op8XY6 (x : RegNum) (y : RegNum) : Statement (.op8XY6 x y) := ⟨wordXYN_and_sub _ x y _, of_decide_eq_true rfl⟩
theorem op8XYE (x : RegNum) (y : RegNum) : Statement (.op8XYE x y) := ⟨wordXYN_and_sub _ x y _, of_decide_eq_true rfl⟩
theorem op9XY0 (x : RegNum) (y : RegNum) : Statement (.op9XY0 x y) := ⟨wordXYN_and_sub _ x y _, of_decide_eq_true rfl⟩
theorem opANNN (nnn : Addr) : Statement (.opANNN nnn) := ⟨wordNNN_and_op _ nnn, of_decide_eq_true rfl⟩
theorem opBNNN (nnn : Addr) : Statement (.opBNNN nnn) := ⟨wordNNN_and_op _ nnn, of_decide_eq_true rfl⟩
theorem opCXNN (x : RegNum) (nn : Byte) : Statement (.opCXNN x nn) := ⟨(and_op _).trans (by simp [encode]; rfl), of_decide_eq_true rfl⟩
theorem opDXYN (x : RegNum) (y : RegNum) (n : BitVec 4) : Statement (.opDXYN x y n) := ⟨(and_op _).trans (by simp [encode]; rfl), of_decide_eq_true rfl⟩
theorem opEX9E (x : RegNum) : Statement (.opEX9E x) := ⟨wordX_and_sub _ x _, of_decide_eq_true rfl⟩
theorem opEXA1 (x : RegNum) : Statement (.opEXA1 x) := ⟨wordX_and_sub _ x _, of_decide_eq_true rfl⟩
theorem opFX07 (x : RegNum) : Statement (.opFX07 x) := ⟨wordX_and_sub _ x _, of_decide_eq_true rfl⟩
theorem opFX0A (x : RegNum) : Statement (.opFX0A x) := ⟨wordX_and_sub _ x _, of_decide_eq_true rfl⟩
theorem opFX15 (x : RegNum) : Statement (.opFX15 x) := ⟨wordX_and_sub _ x _, of_decide_eq_true rfl⟩
theorem opFX18 (x : RegNum) : Statement (.opFX18 x) := ⟨wordX_and_sub _ x _, of_decide_eq_true rfl⟩
theorem opFX1E (x : RegNum) : Statement (.opFX1E x) := ⟨wordX_and_sub _ x _, of_decide_eq_true rfl⟩
theorem opFX29 (x : RegNum) : Statement (.opFX29 x) := ⟨wordX_and_sub _ x _, of_decide_eq_true rfl⟩
theorem opFX33 (x : RegNum) : Statement (.opFX33 x) := ⟨wordX_and_sub _ x _, of_decide_eq_true rfl⟩
theorem opFX55 (x : RegNum) : Statement (.opFX55 x) := ⟨wordX_and_sub _ x _, of_decide_eq_true rfl⟩
theorem opFX65 (x : RegNum) : Statement (.opFX65 x) := ⟨wordX_and_sub _ x _, of_decide_eq_true rfl⟩

end Sys2Proof.Laws.RowMatch
end

