-- ==== Sys2Proof/Tests/Slice0.lean ====
section
/-! SUPPORT. The model's own tests. Expected results come from the spec: the vectors T1 to T163 of 95_test_vectors.md, named in
each comment, and the opcode map of 30_encoding.md R75. Then, for every statement with hypotheses, a state and operands that
meet all of them, at the boundary values where a statement has several clauses. -/

namespace Sys2Proof.Tests

open Sys2Proof.Machine

/-! ## Building states and reading outcomes -/

/-- The reset state with the word `w` at 0x200. -/
def start (w : Opcode) : State := State.reset.placeWord w

/-- The reset state with PC at `pc` and the word `w` there. -/
def startAt (pc : PcWord) (w : Opcode) : State := (State.reset.setPc pc).placeWord w

/-- A byte poked into memory. -/
def poke (a : Nat) (b : Byte) (s : State) : State := s.setMem (s.mem.write a b)

/-- A frame buffer with the listed pixels on, each listed once. -/
def fbOn (on : List Nat) : FrameBuffer := on.foldl flipPixel blankFb

/-- The outcome is a next state with this property. -/
def nextSat (o : Host.Outcome State Fault Refusal) (p : State → Bool) : Bool :=
  match o with
  | .next t => p t
  | .fault _ => false
  | .refused _ => false

/-- The outcome is this next state, every field of it. -/
def nextIs (o : Host.Outcome State Fault Refusal) (t : State) : Bool := nextSat o fun u => decide (u = t)

/-- The outcome is this fault. -/
def faultIs (o : Host.Outcome State Fault Refusal) (f : Fault) : Bool :=
  match o with
  | .next _ => false
  | .fault g => decide (g = f)
  | .refused _ => false

/-! ## Well-formedness smoke: words of no row -/

/-- One unsupported word of each family that has gaps (R80 to R83; T131 to T145) is refused. -/
theorem test_supported_refuses :
    supported 0x0000 = false ∧ supported 0x00E1 = false ∧ supported 0x5121 = false ∧ supported 0x8127 = false ∧
    supported 0x912F = false ∧ supported 0xE09F = false ∧ supported 0xF30B = false := by decide

/-- A supported word of each of those families is not. -/
theorem test_supported_accepts :
    supported 0x00E0 = true ∧ supported 0x5120 = true ∧ supported 0x812E = true ∧ supported 0x9120 = true ∧
    supported 0xE09E = true ∧ supported 0xF30A = true ∧ supported 0x1ABC = true := by decide

/-- The masks and matches of the opcode map, written out from the table of R75. -/
theorem test_opcode_map :
    opcodeMap.map (fun r => (r.mask, r.value)) =
      ([(0xFFFF, 0x00E0), (0xFFFF, 0x00EE), (0xF000, 0x1000), (0xF000, 0x2000), (0xF000, 0x3000), (0xF000, 0x4000)] ++
      [(0xF00F, 0x5000), (0xF000, 0x6000), (0xF000, 0x7000), (0xF00F, 0x8000), (0xF00F, 0x8001), (0xF00F, 0x8002)] ++
      [(0xF00F, 0x8003), (0xF00F, 0x8004), (0xF00F, 0x8005), (0xF00F, 0x8006), (0xF00F, 0x800E), (0xF00F, 0x9000)] ++
      [(0xF000, 0xA000), (0xF000, 0xB000), (0xF000, 0xC000), (0xF000, 0xD000), (0xF0FF, 0xE09E), (0xF0FF, 0xE0A1)] ++
      [(0xF0FF, 0xF007), (0xF0FF, 0xF00A), (0xF0FF, 0xF015), (0xF0FF, 0xF018), (0xF0FF, 0xF01E), (0xF0FF, 0xF029)] ++
      [(0xF0FF, 0xF033), (0xF0FF, 0xF055), (0xF0FF, 0xF065)] : List (Opcode × Opcode)) := by decide

/-! ## Decoding and encoding: every row, a word written out in bits from the pattern of R75 -/

/-- The word decodes to the instruction, and the instruction encodes to the word. -/
def codes (w : Opcode) (i : Instr) : Bool := decide (decodeWord w = some i) && decide (encode i = w)

theorem test_codes_family_0_to_2 :
    codes 0b0000000011100000 .op00E0 ∧ codes 0b0000000011101110 .op00EE ∧ codes 0b0001101010111100 (.op1NNN 0xABC) ∧
    codes 0b0010001100000000 (.op2NNN 0x300) := by decide

theorem test_codes_family_3_to_7 :
    codes 0b0011001100101010 (.op3XNN 3 0x2A) ∧ codes 0b0100001100101010 (.op4XNN 3 0x2A) ∧
    codes 0b0101000100100000 (.op5XY0 1 2) ∧ codes 0b0110101000010010 (.op6XNN 10 0x12) ∧
    codes 0b0111001000000010 (.op7XNN 2 0x02) := by decide

theorem test_codes_family_8 :
    codes 0b1000000100100000 (.op8XY0 1 2) ∧ codes 0b1000000100100001 (.op8XY1 1 2) ∧ codes 0b1000000100100010 (.op8XY2 1 2) ∧
    codes 0b1000000100100011 (.op8XY3 1 2) ∧ codes 0b1000000100100100 (.op8XY4 1 2) ∧ codes 0b1000000100100101 (.op8XY5 1 2) ∧
    codes 0b1000001101000110 (.op8XY6 3 4) ∧ codes 0b1000001101001110 (.op8XYE 3 4) := by decide

theorem test_codes_family_9_to_D :
    codes 0b1001000100100000 (.op9XY0 1 2) ∧ codes 0b1010001100000001 (.opANNN 0x301) ∧
    codes 0b1011111111111110 (.opBNNN 0xFFE) ∧ codes 0b1100010000001111 (.opCXNN 4 0x0F) ∧
    codes 0b1101000000010101 (.opDXYN 0 1 5) := by decide

theorem test_codes_family_E :
    codes 0b1110001010011110 (.opEX9E 2) ∧ codes 0b1110001010100001 (.opEXA1 2) := by decide

theorem test_codes_family_F :
    codes 0b1111001100000111 (.opFX07 3) ∧ codes 0b1111010100001010 (.opFX0A 5) ∧ codes 0b1111001100010101 (.opFX15 3) ∧
    codes 0b1111001100011000 (.opFX18 3) ∧ codes 0b1111001000011110 (.opFX1E 2) ∧ codes 0b1111000100101001 (.opFX29 1) ∧
    codes 0b1111000100110011 (.opFX33 1) ∧ codes 0b1111001001010101 (.opFX55 2) ∧ codes 0b1111001001100101 (.opFX65 2) := by
  decide

/-- The words of T131 to T145 decode to nothing. -/
theorem test_decode_rejects :
    [0x0000, 0x0123, 0x00E1, 0x00FD, 0x5121, 0x912F, 0x8127, 0x8128, 0x812F, 0xE09F, 0xE000, 0xF000, 0xF30B, 0xF375,
      0xF1FF].all (fun w => decide (decodeWord w = none)) = true := by decide

/-- Bytes are taken most significant first, the rest is handed back, and a lone byte is rejected by name. -/
theorem test_decode_bytes :
    decode [0x12, 0x6A, 0x00] = .ok (.op1NNN 0x26A, [0x00]) ∧ decode [0x12] = .error .truncated ∧
    decode [0x81, 0x27] = .error (.unsupported 0x8127) := ⟨rfl, rfl, rfl⟩

/-- A word of the opcode table: read by the decoder, and run by the very next step after reset. -/
theorem test_table_word :
    decodeTableWord 16 0x6A12 = some (.op6XNN 10 0x12) ∧
    nextSat (step (State.reset.withFetchWord 16 0x6A12)) (fun t => t.getV 10 == 0x12 && t.pc == 0x202) = true := by decide

/-! ## Control flow (T1 to T29) -/

/-- T3. -/
theorem test_1NNN_to_last : nextIs (step (start 0x1FFF)) ((start 0x1FFF).setPc 0xFFF) = true := by decide
/-- T4. -/
theorem test_1NNN_odd : nextIs (step (startAt 0xFFE 0x1201)) ((startAt 0xFFE 0x1201).setPc 0x201) = true := by decide
/-- T5. -/
theorem test_2NNN_pushes_own_address :
    nextIs (step (startAt 0x2A4 0x2300)) (((startAt 0x2A4 0x2300).setStack [0x2A4]).setPc 0x300) = true := by decide
/-- T7. -/
theorem test_2NNN_overflow :
    faultIs (step ((start 0x2300).setStack (List.replicate 16 0x204))) (.stackOverflow 0x2300 0x200) = true := by decide
/-- T9. -/
theorem test_00EE_newest :
    nextIs (step ((start 0x00EE).setStack [0x204, 0x3F1])) (((start 0x00EE).setStack [0x204]).setPc 0x3F3) = true := by decide
/-- T10. -/
theorem test_00EE_underflow : faultIs (step (start 0x00EE)) (.stackUnderflow 0x00EE 0x200) = true := by decide
/-- T13. -/
theorem test_BNNN_unreduced :
    nextIs (step ((start 0xBFFF).setV 0 0xFF)) (((start 0xBFFF).setV 0 0xFF).setPc 0x10FE) = true := by decide
/-- T15. -/
theorem test_BNNN_uses_V0 :
    nextIs (step ((start 0xB300).setV 3 0x55)) (((start 0xB300).setV 3 0x55).setPc 0x300) = true := by decide
/-- T16. -/
theorem test_3XNN_equal : nextIs (step ((start 0x332A).setV 3 0x2A)) (((start 0x332A).setV 3 0x2A).setPc 0x204) = true := by decide
/-- T27. -/
theorem test_3XNN_past_the_end : nextIs (step (startAt 0xFFE 0x3000)) ((startAt 0xFFE 0x3000).setPc 0x1002) = true := by decide
/-- T19. -/
theorem test_4XNN_equal : nextIs (step ((start 0x432A).setV 3 0x2A)) (((start 0x432A).setV 3 0x2A).setPc 0x202) = true := by decide
/-- T20. -/
theorem test_4XNN_differs : nextIs (step (start 0x432A)) ((start 0x432A).setPc 0x204) = true := by decide
/-- T21. -/
theorem test_5XY0_equal :
    nextIs (step (((start 0x5120).setV 1 7).setV 2 7)) ((((start 0x5120).setV 1 7).setV 2 7).setPc 0x204) = true := by decide
/-- T22. -/
theorem test_5XY0_differs :
    nextIs (step (((start 0x5120).setV 1 7).setV 2 8)) ((((start 0x5120).setV 1 7).setV 2 8).setPc 0x202) = true := by decide
/-- T24. -/
theorem test_9XY0_differs :
    nextIs (step (((start 0x9120).setV 1 7).setV 2 8)) ((((start 0x9120).setV 1 7).setV 2 8).setPc 0x204) = true := by decide
/-- T26. -/
theorem test_9XY0_same_register :
    nextIs (step ((start 0x9440).setV 4 9)) (((start 0x9440).setV 4 9).setPc 0x202) = true := by decide

/-! ## Loads, arithmetic, logic, shifts, random (T30 to T67) -/

/-- T30. -/
theorem test_6XNN : nextIs (step (start 0x6A12)) (((start 0x6A12).setV 10 0x12).setPc 0x202) = true := by decide
/-- T31. -/
theorem test_6XNN_VF : nextIs (step ((start 0x6FFF).setV 15 1)) (((start 0x6FFF).setV 15 0xFF).setPc 0x202) = true := by decide
/-- T32. -/
theorem test_7XNN_wraps : nextIs (step ((start 0x7202).setV 2 0xFF)) (((start 0x7202).setV 2 0x01).setPc 0x202) = true := by decide
/-- T35. -/
theorem test_7XNN_VF : nextIs (step ((start 0x7F03).setV 15 0xFE)) (((start 0x7F03).setV 15 0x01).setPc 0x202) = true := by decide
/-- T36. -/
theorem test_8XY0 :
    nextIs (step ((start 0x8010).setV 1 0x33)) ((((start 0x8010).setV 1 0x33).setV 0 0x33).setPc 0x202) = true := by decide
/-- T38. -/
theorem test_8XY1_keeps_VF :
    nextIs (step ((((start 0x8011).setV 0 0xF0).setV 1 0x0F).setV 15 1))
      (((((start 0x8011).setV 0 0xFF).setV 1 0x0F).setV 15 1).setPc 0x202) = true := by decide
/-- T39. -/
theorem test_8XY2_keeps_VF :
    nextIs (step ((((start 0x8012).setV 0 0xF3).setV 1 0x0F).setV 15 1))
      (((((start 0x8012).setV 0 0x03).setV 1 0x0F).setV 15 1).setPc 0x202) = true := by decide
/-- T40. -/
theorem test_8XY3_keeps_VF :
    nextIs (step ((((start 0x8013).setV 0 0xFF).setV 1 0x0F).setV 15 1))
      (((((start 0x8013).setV 0 0xF0).setV 1 0x0F).setV 15 1).setPc 0x202) = true := by decide
/-- T46. -/
theorem test_8XY4_X_is_15 :
    nextIs (step (((start 0x8F14).setV 15 0xF0).setV 1 0x20)) ((((start 0x8F14).setV 15 0x10).setV 1 0x20).setPc 0x202) = true := by
  decide
/-- T47. -/
theorem test_8XY4_Y_is_15 :
    nextIs (step (((start 0x81F4).setV 15 0x03).setV 1 0xFE)) ((((start 0x81F4).setV 15 0x01).setV 1 0x01).setPc 0x202) = true := by
  decide
/-- T48. -/
theorem test_8XY5_borrow :
    nextIs (step (((start 0x8125).setV 1 0x05).setV 2 0x0A)) ((((start 0x8125).setV 1 0xFB).setV 2 0x0A).setPc 0x202) = true := by
  decide
/-- T50. -/
theorem test_8XY5_equal :
    nextIs (step ((((start 0x8125).setV 1 0x42).setV 2 0x42).setV 15 1))
      ((((start 0x8125).setV 1 0x00).setV 2 0x42).setPc 0x202) = true := by decide
/-- T54. -/
theorem test_8XY6_ignores_Y :
    nextIs (step (((start 0x8346).setV 3 0x05).setV 4 0xFF))
      (((((start 0x8346).setV 3 0x02).setV 4 0xFF).setV 15 1).setPc 0x202) = true := by decide
/-- T58. -/
theorem test_8XY6_X_is_15 : nextIs (step ((start 0x8F06).setV 15 3)) (((start 0x8F06).setV 15 1).setPc 0x202) = true := by decide
/-- T59. -/
theorem test_8XYE_ignores_Y :
    nextIs (step ((start 0x834E).setV 3 0x81)) ((((start 0x834E).setV 3 0x02).setV 15 1).setPc 0x202) = true := by decide
/-- T63. -/
theorem test_8XYE_X_is_15 :
    nextIs (step ((start 0x8F0E).setV 15 0x81)) (((start 0x8F0E).setV 15 0x02).setPc 0x202) = true := by decide
/-- T64, the drawn byte left free: V4 is the byte drawn AND 0x0F. -/
theorem test_CXNN_mask :
    ∃ t, step (start 0xC40F) = .next t ∧ t.getV 4 = Config.randomByte 0 &&& 0x0F ∧ t.pc = 0x202 := ⟨_, rfl, rfl, rfl⟩
/-- T65: with the mask 0x00 the result is 0 whatever is drawn. -/
theorem test_CXNN_zero_mask :
    ∃ t, step ((start 0xC400).setV 4 0x55) = .next t ∧ t.getV 4 = 0 := ⟨_, rfl, BitVec.and_zero (x := Config.randomByte 0)⟩

/-! ## Index and memory (T68 to T92) -/

/-- T69. -/
theorem test_ANNN : nextIs (step (start 0xAFFF)) (((start 0xAFFF).setI 0xFFF).setPc 0x202) = true := by decide
/-- T71. -/
theorem test_FX1E_wraps :
    nextIs (step (((start 0xF21E).setI 0xFFF).setV 2 1)) ((((start 0xF21E).setI 0x000).setV 2 1).setPc 0x202) = true := by decide
/-- T72. -/
theorem test_FX1E_wraps_far :
    nextIs (step (((start 0xF21E).setI 0xFF0).setV 2 0xFF)) ((((start 0xF21E).setI 0x0EF).setV 2 0xFF).setPc 0x202) = true := by
  decide
/-- T75. -/
theorem test_FX29_last_glyph :
    nextIs (step ((start 0xF029).setV 0 0x0F)) ((((start 0xF029).setV 0 0x0F).setI 0x09B).setPc 0x202) = true := by decide
/-- T77. -/
theorem test_FX29_all_bits :
    nextIs (step ((start 0xF029).setV 0 0xFF)) ((((start 0xF029).setV 0 0xFF).setI 0x54B).setPc 0x202) = true := by decide
/-- T79. -/
theorem test_FX33_255 :
    nextIs (step (((start 0xF033).setV 0 0xFF).setI 0x300))
      ((poke 0x300 2 (poke 0x301 5 (poke 0x302 5 (((start 0xF033).setV 0 0xFF).setI 0x300)))).setPc 0x202) = true := by decide
/-- T82. -/
theorem test_FX33_past_the_end :
    faultIs (step (((start 0xF033).setV 0 0x64).setI 0xFFE)) (.outOfBounds .memWrite 0x1000 0xF033 0x200) = true := by decide
/-- T87. -/
theorem test_FX55_all_registers :
    nextIs (step ((((start 0xFF55).setV 0 1).setV 15 0xEE).setI 0xFF0))
      ((poke 0xFF0 1 (poke 0xFFF 0xEE ((((start 0xFF55).setV 0 1).setV 15 0xEE).setI 0xFF0))).setPc 0x202) = true := by decide
/-- T86. -/
theorem test_FX55_past_the_end :
    faultIs (step (((start 0xF255).setV 0 0x11).setI 0xFFE)) (.outOfBounds .memWrite 0x1000 0xF255 0x200) = true := by decide
/-- T89. -/
theorem test_FX65_stops_at_X :
    nextIs (step (poke 0x300 2 (poke 0x301 3 (((start 0xF065).setV 1 0x99).setI 0x300))))
      (((poke 0x300 2 (poke 0x301 3 (((start 0xF065).setV 1 0x99).setI 0x300))).setV 0 2).setPc 0x202) = true := by decide
/-- T91. -/
theorem test_FX65_past_the_end :
    faultIs (step (poke 0xFFF 0x5A (((start 0xF165).setV 0 7).setI 0xFFF))) (.outOfBounds .memRead 0x1000 0xF165 0x200) = true := by
  decide

/-! ## Display (T93 to T110) -/

/-- T93. -/
theorem test_00E0 :
    nextIs (step ((start 0x00E0).setFb (fbOn [5, 2047]))) (((start 0x00E0).setRedraw true).setPc 0x202) = true := by decide
/-- T99. -/
theorem test_DXYN_wraps_down :
    nextIs (step (poke 0x300 0xC0 (poke 0x301 0xC0 (((start 0xD012).setI 0x300).setV 1 0x1F))))
      ((((poke 0x300 0xC0 (poke 0x301 0xC0 (((start 0xD012).setI 0x300).setV 1 0x1F))).setFb
        (fbOn [0, 1, 1984, 1985])).setRedraw true).setPc 0x202) = true := by decide
/-- T100. -/
theorem test_DXYN_collides :
    nextIs (step (poke 0x300 0xF0 (((start 0xD011).setI 0x300).setFb (fbOn [1]))))
      (((((poke 0x300 0xF0 ((start 0xD011).setI 0x300)).setFb (fbOn [0, 2, 3])).setV 15 1).setRedraw true).setPc 0x202) = true := by
  decide

/-! ## Keypad and timers (T111 to T130) -/

/-- T113. -/
theorem test_EX9E_key_15 :
    nextIs (step (((start 0xE09E).setV 0 0x0F).setKey 0x8000)) ((((start 0xE09E).setV 0 0x0F).setKey 0x8000).setPc 0x204) = true := by
  decide
/-- T114. -/
theorem test_EX9E_key_16 :
    faultIs (step (((start 0xE09E).setV 0 0x10).setKey 0xFFFF)) (.outOfBounds .keyIndex 0x10 0xE09E 0x200) = true := by decide
/-- T115. -/
theorem test_EXA1_down :
    nextIs (step (((start 0xE0A1).setV 0 7).setKey 0x0080)) ((((start 0xE0A1).setV 0 7).setKey 0x0080).setPc 0x202) = true := by
  decide
/-- T116. -/
theorem test_EXA1_up : nextIs (step ((start 0xE0A1).setV 0 7)) (((start 0xE0A1).setV 0 7).setPc 0x204) = true := by decide
/-- T118. -/
theorem test_FX07 :
    nextIs (step ((start 0xF307).setDt 0x2C)) ((((start 0xF307).setDt 0x2C).setV 3 0x2C).setPc 0x202) = true := by decide
/-- T119. -/
theorem test_FX15 :
    nextIs (step ((start 0xF315).setV 3 0x3C)) ((((start 0xF315).setV 3 0x3C).setDt 0x3C).setPc 0x202) = true := by decide
/-- T121. -/
theorem test_FX18_silences : nextIs (step ((start 0xF318).setSt 9)) (((start 0xF318).setSt 0).setPc 0x202) = true := by decide
/-- T120: the tone sounds in the very step that sets ST. -/
theorem test_FX18_tone :
    stepOutputs ((start 0xF318).setV 3 5) = some ⟨completedReport, true, false⟩ := rfl
/-- T124. -/
theorem test_FX0A_begins :
    nextIs (step ((startAt 0x206 0xF50A).setKey 0x0080))
      ((((startAt 0x206 0xF50A).setKey 0x0080).setKlatch 0x0080).setWait true) = true := by decide
/-- T129. -/
theorem test_FX0A_lowest_change :
    nextIs (step ((((startAt 0x206 0xF50A).setKey 0x8008).setKlatch 0x0001).setWait true))
      ((((startAt 0x206 0xF50A).setKey 0x8008).setKlatch 0x0001).setPc 0x208) = true := by decide

/-! ## Fetch and host operations (T146 to T163) -/

/-- T146 and T153. -/
theorem test_fetch_at_last_byte : faultIs (step (State.reset.setPc 0xFFF)) (.outOfBounds .fetch 0xFFF 0 0xFFF) = true := by decide
/-- T151, and T150 at an odd address. -/
theorem test_fetch_big_endian :
    nextSat (step (poke 0x200 0x12 (poke 0x201 0x6A State.reset))) (fun t => t.pc == 0x26A && t.getV 10 == 0) = true ∧
    nextSat (step (poke 0x201 0x6A (poke 0x202 0x12 (State.reset.setPc 0x201)))) (fun t => t.pc == 0x203 && t.getV 10 == 0x12) =
      true := by decide
/-- T152 and T162: reset memory holds no instruction at 0x200. -/
theorem test_step_after_reset : faultIs (step State.reset) (.unsupportedOpcode 0x0000 0x200) = true := by decide
/-- T154 and T155. -/
theorem test_tick :
    tick (State.reset.setDt 3) = State.reset.setDt 2 ∧ tick (State.reset.setSt 1) = State.reset := by decide
/-- T157. -/
theorem test_keyWrite : nextIs (perform defaultFont (.keyWrite 0x8001) State.reset) (State.reset.setKey 0x8001) = true := by decide
/-- T158. -/
theorem test_redrawClear :
    redrawClear ((State.reset.setRedraw true).setFb (fbOn [0])) = State.reset.setFb (fbOn [0]) := by decide
/-- T159. -/
theorem test_hostReset :
    hostReset defaultFont (poke 0x300 2 (((((State.reset.setV 1 7).setPc 0x20A).setStack [1, 2, 3]).setKey 0x80).setWait true)) =
      State.reset := by decide
/-- 00_scope.md R8: FONT is an argument. With a table of 0xAA bytes the last font byte is 0xAA and the byte after it 0. -/
theorem test_reset_with_another_font :
    (State.resetWith (Vector.replicate 80 0xAA)).mem.read 0x09F = 0xAA ∧
    (State.resetWith (Vector.replicate 80 0xAA)).mem.read 0x0A0 = 0 := by
  rw [State.read_resetWith, State.read_resetWith]
  exact ⟨by decide, by decide⟩
/-- T161. -/
theorem test_loadProgram_too_large :
    perform defaultFont (.loadProgram (List.replicate 0xE01 0)) State.reset = .fault (.programTooLarge 0xE01) := by
  have h : (List.replicate 0xE01 (0 : Byte)).length = 0xE01 := List.length_replicate
  simp only [perform, loadProgram, raise, h]
  rfl
/-- T163. -/
theorem test_loadProgram_discards_the_wait :
    nextIs (perform defaultFont (.loadProgram [0x12, 0x00]) ((State.reset.setWait true).setPc 0x206))
      (poke 0x200 0x12 State.reset) = true := by decide

/-! ## Witnesses: the hypotheses of each statement can be met

One theorem per statement, named after it, with one conjunct or case for each of its clauses. -/

theorem witness_EncodeThenDecodeGivesTheInstruction : (Instr.opDXYN 15 15 15).wellFormed = true := rfl

theorem witness_DecoderFollowsTheOpcodeMap :
    (opcodeMap.any fun r => r.covers 0xF065) = true ∧ (opcodeMap.all fun r => !r.covers 0xF066) = true ∧
    (startAt 0xFFE 0x1200).pc.toNat ≤ 0xFFE ∧ decodeWord (startAt 0xFFE 0x1200).wordAtPc = some (.op1NNN 0x200) ∧
    decodeWord (startAt 0xFFE 0xF066).wordAtPc = none := by decide

theorem witness_StepRunsTheDecodedInstruction :
    (startAt 0xFFE 0x1200).pc.toNat + 1 < 4096 ∧
    decode [(startAt 0xFFE 0x1200).mem.read 0xFFE, (startAt 0xFFE 0x1200).mem.read 0xFFF] = .ok (.op1NNN 0x200, []) ∧
    (Instr.op1NNN 0x200).wellFormed = true := ⟨by decide, rfl, rfl⟩

theorem witness_FetchChecksPcAndReadsBigEndian :
    4096 ≤ (State.reset.setPc 0xFFF).pc.toNat + 1 ∧ (State.reset.setPc 0xFFE).pc.toNat + 1 < 4096 ∧
    decodeWord (startAt 0xFFE 0x1200).wordAtPc = some (.op1NNN 0x200) ∧ decodeWord (State.reset.setPc 0xFFE).wordAtPc = none := by
  decide

theorem witness_JumpSetsPc :
    nextSat (exec (.op1NNN 0xFFF) (start 0x1FFF)) (fun t => faultIs (step t) (.outOfBounds .fetch 0xFFF 0 0xFFF)) = true := by
  decide

theorem witness_JumpWithOffsetDoesNotWrap :
    0xFFF ≤ (0xFFE : Addr).toNat + (((start 0xBFFE).setV 0 1).getV 0).toNat ∧
    nextSat (exec (.opBNNN 0xFFE) ((start 0xBFFE).setV 0 1)) (fun t => t.pc == 0xFFF) = true := by decide

theorem witness_CallPushesItsOwnAddress :
    ((start 0x2300).setStack (List.replicate 15 0x204)).sp < 16 ∧
    nextSat (exec (.op2NNN 0x300) ((start 0x2300).setStack (List.replicate 15 0x204))) (fun t => t.sp == 16) = true ∧
    ((start 0x2300).setStack (List.replicate 16 0x204)).sp = 16 := by decide

theorem witness_ReturnTakesTheNewestEntry :
    ((start 0x00EE).setStack [0xFFE]).stack = [] ++ [0xFFE] ∧
    nextSat (exec .op00EE ((start 0x00EE).setStack [0xFFE])) (fun t => t.pc == 0x1000) = true ∧ (start 0x00EE).stack = [] := by
  decide

theorem witness_ReturnComesBackAfterTheCall :
    ∃ t, exec (.op2NNN 0x300) (start 0x2300) = .next t ∧ (t.setPc 0x310).stack = t.stack ∧
      nextSat (exec .op00EE (t.setPc 0x310)) (fun r => r.pc == 0x202) = true := ⟨_, rfl, rfl, by decide⟩

theorem witness_ConditionalSkipsCompareWholeRegisters :
    nextSat (exec (.op3XNN 3 0) (start 0x3300)) (fun t => t.pc == 0x204) = true ∧
    nextSat (exec (.op4XNN 3 0) (start 0x4300)) (fun t => t.pc == 0x202) = true ∧
    nextSat (exec (.op5XY0 3 4) ((start 0x5340).setV 4 0x80)) (fun t => t.pc == 0x202) = true ∧
    nextSat (exec (.op9XY0 3 4) ((start 0x9340).setV 4 0x80)) (fun t => t.pc == 0x204) = true := by decide

theorem witness_AddSetsCarry :
    (14 : RegNum) ≠ 15 ∧ 255 < (0xFF : Byte).toNat + (1 : Byte).toNat ∧
    nextSat (exec (.op8XY4 14 1) (((start 0x8E14).setV 14 0xFF).setV 1 1)) (fun t => t.getV 15 == 1 && t.getV 14 == 0) = true := by
  decide

theorem witness_SubtractSetsStrictNoBorrow :
    (14 : RegNum) ≠ 15 ∧
    nextSat (exec (.op8XY5 14 1) ((start 0x8E15).setV 14 1)) (fun t => t.getV 15 == 1 && t.getV 14 == 1) = true ∧
    nextSat (exec (.op8XY5 14 1) ((start 0x8E15).setV 1 1)) (fun t => t.getV 15 == 0 && t.getV 14 == 0xFF) = true := by decide

theorem witness_ShiftsMoveOneBitIntoVf :
    (14 : RegNum) ≠ 15 ∧
    nextSat (exec (.op8XY6 14 0) ((start 0x8E06).setV 14 0xFF)) (fun t => t.getV 15 == 1 && t.getV 14 == 0x7F) = true ∧
    nextSat (exec (.op8XYE 14 0) ((start 0x8E0E).setV 14 0x7F)) (fun t => t.getV 15 == 0 && t.getV 14 == 0xFE) = true := by decide

/-- T81 and T82: the last base that fits and the first that does not. -/
theorem witness_StoreDecimalDigits :
    ((start 0xF033).setI 0xFFD).mem.wf = true ∧ ((start 0xF033).setI 0xFFD).base + 2 ≤ 0xFFF ∧
    nextSat (exec (.opFX33 0) (((start 0xF033).setI 0xFFD).setV 0 100)) (fun t => t.mem.read 0xFFD == 1) = true ∧
    0xFFF < ((start 0xF033).setI 0xFFE).base + 2 := by decide

/-- T85 and T86. -/
theorem witness_StoreRegistersUpToX :
    ((start 0xF155).setI 0xFFE).mem.wf = true ∧ ((start 0xF155).setI 0xFFE).base + (1 : RegNum).toNat ≤ 0xFFF ∧
    nextSat (exec (.opFX55 1) (((start 0xF155).setI 0xFFE).setV 1 0x22)) (fun t => t.mem.read 0xFFF == 0x22) = true ∧
    0xFFF < ((start 0xF255).setI 0xFFE).base + (2 : RegNum).toNat := by decide

/-- T90 and T91. -/
theorem witness_LoadRegistersUpToX :
    ((start 0xF065).setI 0xFFF).base + (0 : RegNum).toNat ≤ 0xFFF ∧
    nextSat (exec (.opFX65 0) (poke 0xFFF 0x5A ((start 0xF065).setI 0xFFF))) (fun t => t.getV 0 == 0x5A) = true ∧
    0xFFF < ((start 0xF165).setI 0xFFF).base + (1 : RegNum).toNat := by decide

theorem witness_StoredRegistersLoadBack :
    ∃ t, exec (.opFX55 1) (((start 0xF155).setI 0x300).setV 1 0x22) = .next t ∧
      (((start 0xF155).setI 0x300).setV 1 0x22).mem.wf = true ∧ (t.setV 1 0).mem = t.mem ∧ (t.setV 1 0).i = t.i ∧
      nextSat (exec (.opFX65 1) (t.setV 1 0)) (fun r => r.getV 1 == 0x22) = true := ⟨_, rfl, by decide, rfl, rfl, by decide⟩

/-- The store of program P7 of 95_test_vectors.md, of two bytes: the next fetch reads them. -/
theorem witness_StoredBytesAreFetched :
    ∃ t, exec (.opFX55 1) ((((start 0xF155).setI 0x300).setV 0 0x61).setV 1 0x05) = .next t ∧
      ((((start 0xF155).setI 0x300).setV 0 0x61).setV 1 0x05).mem.wf = true ∧ (0 : RegNum).toNat < (1 : RegNum).toNat ∧
      (t.setPc 0x300).mem = t.mem ∧
      (t.setPc 0x300).pc.toNat = ((((start 0xF155).setI 0x300).setV 0 0x61).setV 1 0x05).base + (0 : RegNum).toNat ∧
      decodeWord (t.setPc 0x300).wordAtPc = some (.op6XNN 1 5) :=
  ⟨_, rfl, by decide, by decide, rfl, by decide, by decide⟩

/-- T105 to T109: N = 0 at the last address, the last sprite that fits, the first that does not; and both values of VF. -/
theorem witness_DrawFlipsCoveredPixels :
    nextSat (exec (.opDXYN 0 1 0) ((start 0xD010).setI 0xFFF)) (fun t => t.redraw && t.getV 15 == 0) = true ∧
    ((start 0xD00F).setI 0xFF1).base + (15 : BitVec 4).toNat - 1 ≤ 0xFFF ∧
    0xFFF < ((start 0xD00F).setI 0xFF2).base + (15 : BitVec 4).toNat - 1 ∧
    nextSat (exec (.opDXYN 0 1 1) ((poke 0x300 0x80 ((start 0xD011).setI 0x300)).setFb (fbOn [0])))
      (fun t => t.getV 15 == 1 && !t.pixel 0) = true := by decide

/-- T96: the sprite of one pixel covers pixel 0, which is on. -/
theorem witness_DrawFlipsCoveredPixels_collision :
    SpriteCovers ((poke 0x300 0x80 ((start 0xD011).setI 0x300)).setFb (fbOn [0])) 0 1 1 0 ∧
    ((poke 0x300 0x80 ((start 0xD011).setI 0x300)).setFb (fbOn [0])).pixel 0 = true :=
  ⟨⟨0, 0, by decide, by decide, by decide, by decide⟩, by decide⟩

theorem witness_DrawingTwiceRestoresTheScreen :
    ∃ t, exec (.opDXYN 0 1 1) (poke 0x300 0x80 ((start 0xD011).setI 0x300)) = .next t ∧ t.getV 0 = 0 ∧ t.getV 1 = 0 ∧
      nextSat (exec (.opDXYN 0 1 1) t) (fun u => u.getV 15 == 1 && !u.pixel 0) = true := ⟨_, rfl, rfl, rfl, by decide⟩

theorem witness_KeySkipsTestOneKey :
    (((start 0xE09E).setV 0 15).getV 0).toNat ≤ 15 ∧
    nextSat (exec (.opEX9E 0) (((start 0xE09E).setV 0 15).setKey 0x8000)) (fun t => t.pc == 0x204) = true ∧
    nextSat (exec (.opEXA1 0) (((start 0xE0A1).setV 0 15).setKey 0x8000)) (fun t => t.pc == 0x202) = true ∧
    15 < (((start 0xE09E).setV 0 16).getV 0).toNat := by decide

/-- T123, T125 and T126: a wait begins, goes on, and ends. -/
theorem witness_KeyWaitProtocol :
    nextSat (exec (.opFX0A 5) (startAt 0x206 0xF50A)) (fun t => t.wait && t.pc == 0x206) = true ∧
    nextIs (exec (.opFX0A 5) ((startAt 0x206 0xF50A).setWait true)) ((startAt 0x206 0xF50A).setWait true) = true ∧
    nextSat (exec (.opFX0A 5) (((startAt 0x206 0xF50A).setWait true).setKey 0x80)) (fun t => !t.wait && t.getV 5 == 7) = true := by
  decide

theorem witness_KeyWaitLastsUntilAKeyChanges :
    (startAt 0x206 0xF50A).wait = false ∧ (startAt 0x206 0xF50A).pc.toNat ≤ 0xFFE ∧
    decodeWord (startAt 0x206 0xF50A).wordAtPc = some (.opFX0A 5) ∧ (0x8000 : BitVec 16) ≠ (startAt 0x206 0xF50A).key := by decide

/-- Each of the seven cases occurs. -/
theorem witness_EachInstructionHasItsOneFault :
    faultIs (exec .op00EE (start 0x00EE)) (.stackUnderflow 0x00EE 0x200) = true ∧
    faultIs (exec (.op2NNN 0x300) ((start 0x2300).setStack (List.replicate 16 0))) (.stackOverflow 0x2300 0x200) = true ∧
    faultIs (exec (.opFX33 0) ((start 0xF033).setI 0xFFE)) (.outOfBounds .memWrite 0x1000 0xF033 0x200) = true ∧
    faultIs (exec (.opFX55 1) ((start 0xF155).setI 0xFFF)) (.outOfBounds .memWrite 0x1000 0xF155 0x200) = true ∧
    faultIs (exec (.opFX65 1) ((start 0xF165).setI 0xFFF)) (.outOfBounds .memRead 0x1000 0xF165 0x200) = true ∧
    faultIs (exec (.opDXYN 0 0 2) ((start 0xD002).setI 0xFFF)) (.outOfBounds .memRead 0x1000 0xD002 0x200) = true ∧
    faultIs (exec (.opEX9E 0) ((start 0xE09E).setV 0 16)) (.outOfBounds .keyIndex 16 0xE09E 0x200) = true ∧
    faultIs (exec (.opEXA1 0) ((start 0xE0A1).setV 0 16)) (.outOfBounds .keyIndex 16 0xE0A1 0x200) = true := by decide

/-- Codes 1, 2, 3 and 5 of the fault report. -/
theorem witness_StepFaultReport :
    faultIs (step (State.reset.setPc 0xFFF)) (.outOfBounds .fetch 0xFFF 0 0xFFF) = true ∧
    faultIs (step ((start 0x2300).setStack (List.replicate 16 0))) (.stackOverflow 0x2300 0x200) = true ∧
    faultIs (step (start 0x00EE)) (.stackUnderflow 0x00EE 0x200) = true ∧
    faultIs (step State.reset) (.unsupportedOpcode 0 0x200) = true := by decide

theorem witness_FaultRepeatsUntilResetOrLoad :
    step (start 0x00EE) = .fault (.stackUnderflow 0x00EE 0x200) ∧
    ∀ op ∈ [HostOp.step, .tick, .keyWrite 1, .redrawClear], op ≠ .reset ∧ ∀ bytes, op ≠ .loadProgram bytes :=
  ⟨rfl, by simp⟩

/-- The five writers of the control elements do change them. -/
theorem witness_ControlElementsHaveOnlyTheirWriters :
    nextSat (exec (.opFX15 0) (start 0xF015 |>.setV 0 1)) (fun t => t.dt != 0) = true ∧
    nextSat (exec (.opFX18 0) (start 0xF018 |>.setV 0 1)) (fun t => t.st != 0) = true ∧
    nextSat (exec (.op6XNN 0 1) (start 0x6001 |>.setRedraw true)) (fun t => t.redraw) = true ∧
    nextSat (exec .op00E0 (start 0x00E0)) (fun t => t.redraw) = true ∧
    nextSat (exec (.opDXYN 0 0 0) (start 0xD000)) (fun t => t.redraw) = true ∧
    nextSat (exec (.opFX0A 0) (start 0xF00A |>.setKey 1)) (fun t => t.wait && t.klatch == 1) = true := by decide

theorem witness_StorageHasOnlyItsWriters :
    nextSat (exec (.opFX29 0) (start 0xF029)) (fun t => t.i != 0) = true ∧
    nextSat (exec (.op2NNN 0) (start 0x2000)) (fun t => t.stack != []) = true ∧
    nextSat (exec (.opFX55 0) ((start 0xF055).setV 0 1)) (fun t => t.mem != (start 0xF055).mem) = true ∧
    nextSat (exec .op00E0 ((start 0x00E0).setFb (fbOn [0]))) (fun t => t.fb != fbOn [0]) = true := by decide

/-- VF changed as a flag, and as the destination of an instruction whose X is 15. -/
theorem witness_VfHasOnlyItsWriters :
    nextSat (exec (.op8XY6 0 0) ((start 0x8006).setV 0 1)) (fun t => t.getV 15 != 0) = true ∧
    nextSat (exec (.opFX65 15) (poke 0x00F 7 (start 0xFF65))) (fun t => t.getV 15 != 0) = true := by decide

/-- A state that meets the invariant while a wait is pending, and whose step completes. -/
theorem witness_StepKeepsTheInvariant :
    Inv ((startAt 0x206 0xF50A).setWait true) ∧
    nextSat (step ((startAt 0x206 0xF50A).setWait true)) (fun t => t.wait) = true := by
  refine ⟨⟨by decide, by decide, fun a h => ?_, by decide, fun _ => ⟨by decide, 5, by decide⟩⟩, by decide⟩
  have : a ∈ ([] : List PcWord) := h
  simp at this

theorem witness_EveryOperationKeepsTheInvariant : Inv ((startAt 0xFFE 0x3000).setStack [0xFFE]) := by
  refine ⟨by decide, by decide, fun a h => ?_, by decide, fun h => ?_⟩
  · have : a ∈ [(0xFFE : PcWord)] := h
    rw [List.mem_singleton.1 this]
    decide
  · have : false = true := h
    simp at this

/-- Reachable: from a reset by three operations, and a program just loaded. -/
theorem witness_ReachableStatesMeetTheInvariant :
    Reachable defaultFont (runOps defaultFont [.tick, .keyWrite 1, .step] (hostReset defaultFont State.reset)) ∧
    ∃ t, loadProgram defaultFont [0x6A, 0x12] State.reset = .next t ∧ Reachable defaultFont t :=
  ⟨⟨_, _, .reset _, rfl⟩, _, rfl, _, [], .load [0x6A, 0x12] State.reset _ rfl, rfl⟩

/-- Two memories written in opposite orders: both canonical, and they read alike. -/
theorem witness_CanonicalMemoriesAreEqualWhenTheyReadAlike :
    (Memory.write [(0xFFF, 2)] 0x200 1).wf = true ∧ (Memory.write [(0x200, 1)] 0xFFF 2).wf = true ∧
    ∀ a < 4096, Memory.read (Memory.write [(0xFFF, 2)] 0x200 1) a = Memory.read (Memory.write [(0x200, 1)] 0xFFF 2) a := by
  have h : Memory.write [(0xFFF, 2)] 0x200 1 = Memory.write [(0x200, 1)] 0xFFF 2 := by decide
  exact ⟨by decide, by decide, fun a _ => by rw [h]⟩

/-- T159. -/
theorem witness_ResetGivesEveryElementItsValue :
    ∃ t, hostReset defaultFont ((State.reset.setV 1 7).setWait true) = t ∧ t.getV 1 = 0 ∧ t.wait = false ∧
      t.mem.read 0x050 = 0xF0 :=
  ⟨_, rfl, by decide, rfl, by decide⟩

theorem witness_KeyWriteSetsTheKeys :
    (keyDownEvent 15 (State.reset.setKey 1)).key = 0x8001 ∧ (keyUpEvent 15 (State.reset.setKey 0x8001)).key = 1 := by decide

/-- T160 and T161: the longest image that fits and the shortest that does not. -/
theorem witness_LoadProgramResetsAndCopies :
    (List.replicate 0xE00 (0xFF : Byte)).length ≤ 0xE00 ∧ 0xE00 < (List.replicate 0xE01 (0 : Byte)).length := by
  rw [List.length_replicate, List.length_replicate]
  decide

theorem witness_LoadThenStepRunsTheFirstInstruction :
    ∃ t, perform defaultFont (.loadProgram (encodeBytes (.op6XNN 10 0x12) ++ [])) (State.reset.setWait true) = .next t ∧
      nextSat (step t) (fun u => u.getV 10 == 0x12) = true := ⟨_, rfl, by decide⟩

/-- T122, and a step that faults with ST > 0. -/
theorem witness_StepOutputsFollowTheStateAfter :
    stepOutputs ((start 0x6000).setSt 2) = some ⟨completedReport, true, false⟩ ∧
    step ((start 0x00EE).setSt 2) = .fault (.stackUnderflow 0x00EE 0x200) ∧
    (stepOutputs ((start 0x00EE).setSt 2)).map (·.tone) = some false := ⟨rfl, rfl, rfl⟩

/-- The end of a run of program P1 of 95_test_vectors.md, at address 0x200. -/
theorem witness_EndedRunsStayEnded : Ended (start 0x1200) := ⟨rfl, 0x200, rfl, rfl⟩

end Sys2Proof.Tests
end

section
/-! ## Fetch (20_memory.md R52): the word fetched as a number, and the step on a word that decodes to nothing -/

namespace Sys2Proof

/-- The byte at the lower address is the high byte of the word (20_memory.md R51). -/
theorem toNat_wordOfBytes (hi lo : Byte) : (wordOfBytes hi lo).toNat = hi.toNat * 256 + lo.toNat :=
  toNat_concat hi lo

end Sys2Proof

namespace Sys2Proof.Machine

theorem State.toNat_wordAtPc (s : State) :
    s.wordAtPc.toNat = (s.mem.read s.pc.toNat).toNat * 256 + (s.mem.read (s.pc.toNat + 1)).toNat :=
  toNat_wordOfBytes _ _

/-- A step that can fetch executes what the word at PC decodes to (60_exceptions.md R218). -/
theorem step_of_decodeWord_some {s : State} {i : Instr} (hpc : s.pc.toNat ≤ 0xFFE)
    (hw : decodeWord s.wordAtPc = some i) : step s = exec i s :=
  step_of_fetchInstr (State.fetchInstr_ok.2 ⟨hpc, hw⟩)

/-- A step that can fetch faults on a word that decodes to nothing (30_encoding.md R74). -/
theorem step_of_decodeWord_none {s : State} (hpc : s.pc.toNat ≤ 0xFFE) (hw : decodeWord s.wordAtPc = none) :
    step s = .fault (.unsupportedOpcode s.wordAtPc s.pc) :=
  step_fault.2 (.inl (State.fetchInstr_error.2 (.inr ⟨hpc, hw, rfl⟩)))

/-- Settles O6: the word the statement asks for is the one at PC. -/
theorem fetchChecksPcAndReadsBigEndian : Obligations.FetchChecksPcAndReadsBigEndian := by
  constructor
  · intro s hpc
    exact ⟨0, s.pc, step_of_fetch_fault (by omega)⟩
  · intro s hpc
    have hpc : s.pc.toNat ≤ 0xFFE := by omega
    exact ⟨s.wordAtPc, s.toNat_wordAtPc, fun _ hw => step_of_decodeWord_some hpc hw,
      fun hw => ⟨s.wordAtPc, s.pc, step_of_decodeWord_none hpc hw⟩⟩

end Sys2Proof.Machine
end

section
/-! ## The decoder against the opcode map (30_encoding.md R74, R75): what each row's words decode to -/

namespace Sys2Proof

/-! ### From the fields of a word to the words under a mask -/

theorem decodesAs_of_word {v : Opcode} {ins : Opcode → Instr} (h : decodeWord v = some (ins v)) : DecodesAs 0xFFFF v ins := by
  intro w hw
  have hwv : w = v := BitVec.and_allOnes.symm.trans hw
  rw [hwv, h]

theorem decodeWord_of_fieldOp_8 {w : Opcode} (h : fieldOp w = 8) : decodeWord w = decodeFamily8 w := by
  simp only [decodeWord, h]; rfl

theorem decodeWord_of_fieldOp_15 {w : Opcode} (h : fieldOp w = 15) : decodeWord w = decodeFamilyF w := by
  simp only [decodeWord, h]; rfl

/-- A row of family 8 fixes the low nibble (30_encoding.md R76). -/
theorem decodesAs_of_family8 {v : Opcode} {ins : Opcode → Instr} (hv : fieldOp v = 8)
    (h : ∀ w, fieldN w = fieldN v → decodeFamily8 w = some (ins w)) : DecodesAs 0xF00F v ins :=
  decodesAs_of_nibble fun w hop hn => (decodeWord_of_fieldOp_8 (hop.trans hv)).trans (h w hn)

/-- A row of family F fixes the low byte (30_encoding.md R76). -/
theorem decodesAs_of_familyF {v : Opcode} {ins : Opcode → Instr} (hv : fieldOp v = 15)
    (h : ∀ w, fieldNN w = fieldNN v → decodeFamilyF w = some (ins w)) : DecodesAs 0xF0FF v ins :=
  decodesAs_of_byte fun w hop hn => (decodeWord_of_fieldOp_15 (hop.trans hv)).trans (h w hn)

/-! ### Rows that fix the whole word -/

theorem decodesAs_00E0 : DecodesAs 0xFFFF 0x00E0 (fun _ => .op00E0) := decodesAs_of_word rfl
theorem decodesAs_00EE : DecodesAs 0xFFFF 0x00EE (fun _ => .op00EE) := decodesAs_of_word rfl

/-! ### Rows that fix the family -/

theorem decodesAs_1NNN : DecodesAs 0xF000 0x1000 (fun w => .op1NNN (fieldNNN w)) :=
  decodesAs_of_op fun w h => by simp only [decodeWord, h]; rfl
theorem decodesAs_2NNN : DecodesAs 0xF000 0x2000 (fun w => .op2NNN (fieldNNN w)) :=
  decodesAs_of_op fun w h => by simp only [decodeWord, h]; rfl
theorem decodesAs_3XNN : DecodesAs 0xF000 0x3000 (fun w => .op3XNN (fieldX w) (fieldNN w)) :=
  decodesAs_of_op fun w h => by simp only [decodeWord, h]; rfl
theorem decodesAs_4XNN : DecodesAs 0xF000 0x4000 (fun w => .op4XNN (fieldX w) (fieldNN w)) :=
  decodesAs_of_op fun w h => by simp only [decodeWord, h]; rfl
theorem decodesAs_6XNN : DecodesAs 0xF000 0x6000 (fun w => .op6XNN (fieldX w) (fieldNN w)) :=
  decodesAs_of_op fun w h => by simp only [decodeWord, h]; rfl
theorem decodesAs_7XNN : DecodesAs 0xF000 0x7000 (fun w => .op7XNN (fieldX w) (fieldNN w)) :=
  decodesAs_of_op fun w h => by simp only [decodeWord, h]; rfl
theorem decodesAs_ANNN : DecodesAs 0xF000 0xA000 (fun w => .opANNN (fieldNNN w)) :=
  decodesAs_of_op fun w h => by simp only [decodeWord, h]; rfl
theorem decodesAs_BNNN : DecodesAs 0xF000 0xB000 (fun w => .opBNNN (fieldNNN w)) :=
  decodesAs_of_op fun w h => by simp only [decodeWord, h]; rfl
theorem decodesAs_CXNN : DecodesAs 0xF000 0xC000 (fun w => .opCXNN (fieldX w) (fieldNN w)) :=
  decodesAs_of_op fun w h => by simp only [decodeWord, h]; rfl
theorem decodesAs_DXYN : DecodesAs 0xF000 0xD000 (fun w => .opDXYN (fieldX w) (fieldY w) (fieldN w)) :=
  decodesAs_of_op fun w h => by simp only [decodeWord, h]; rfl

/-! ### Rows that fix the family and the low nibble -/

theorem decodesAs_5XY0 : DecodesAs 0xF00F 0x5000 (fun w => .op5XY0 (fieldX w) (fieldY w)) :=
  decodesAs_of_nibble fun w h hn => by simp only [decodeWord, h, hn]; rfl
theorem decodesAs_9XY0 : DecodesAs 0xF00F 0x9000 (fun w => .op9XY0 (fieldX w) (fieldY w)) :=
  decodesAs_of_nibble fun w h hn => by simp only [decodeWord, h, hn]; rfl
theorem decodesAs_8XY0 : DecodesAs 0xF00F 0x8000 (fun w => .op8XY0 (fieldX w) (fieldY w)) :=
  decodesAs_of_family8 rfl fun w h => by simp only [decodeFamily8, h]; rfl
theorem decodesAs_8XY1 : DecodesAs 0xF00F 0x8001 (fun w => .op8XY1 (fieldX w) (fieldY w)) :=
  decodesAs_of_family8 rfl fun w h => by simp only [decodeFamily8, h]; rfl
theorem decodesAs_8XY2 : DecodesAs 0xF00F 0x8002 (fun w => .op8XY2 (fieldX w) (fieldY w)) :=
  decodesAs_of_family8 rfl fun w h => by simp only [decodeFamily8, h]; rfl
theorem decodesAs_8XY3 : DecodesAs 0xF00F 0x8003 (fun w => .op8XY3 (fieldX w) (fieldY w)) :=
  decodesAs_of_family8 rfl fun w h => by simp only [decodeFamily8, h]; rfl
theorem decodesAs_8XY4 : DecodesAs 0xF00F 0x8004 (fun w => .op8XY4 (fieldX w) (fieldY w)) :=
  decodesAs_of_family8 rfl fun w h => by simp only [decodeFamily8, h]; rfl
theorem decodesAs_8XY5 : DecodesAs 0xF00F 0x8005 (fun w => .op8XY5 (fieldX w) (fieldY w)) :=
  decodesAs_of_family8 rfl fun w h => by simp only [decodeFamily8, h]; rfl
theorem decodesAs_8XY6 : DecodesAs 0xF00F 0x8006 (fun w => .op8XY6 (fieldX w) (fieldY w)) :=
  decodesAs_of_family8 rfl fun w h => by simp only [decodeFamily8, h]; rfl
theorem decodesAs_8XYE : DecodesAs 0xF00F 0x800E (fun w => .op8XYE (fieldX w) (fieldY w)) :=
  decodesAs_of_family8 rfl fun w h => by simp only [decodeFamily8, h]; rfl

/-! ### Rows that fix the family and the low byte -/

theorem decodesAs_EX9E : DecodesAs 0xF0FF 0xE09E (fun w => .opEX9E (fieldX w)) :=
  decodesAs_of_byte fun w h hn => by simp only [decodeWord, h, hn]; rfl
theorem decodesAs_EXA1 : DecodesAs 0xF0FF 0xE0A1 (fun w => .opEXA1 (fieldX w)) :=
  decodesAs_of_byte fun w h hn => by simp only [decodeWord, h, hn]; rfl
theorem decodesAs_FX07 : DecodesAs 0xF0FF 0xF007 (fun w => .opFX07 (fieldX w)) :=
  decodesAs_of_familyF rfl fun w h => by simp only [decodeFamilyF, h]; rfl
theorem decodesAs_FX0A : DecodesAs 0xF0FF 0xF00A (fun w => .opFX0A (fieldX w)) :=
  decodesAs_of_familyF rfl fun w h => by simp only [decodeFamilyF, h]; rfl
theorem decodesAs_FX15 : DecodesAs 0xF0FF 0xF015 (fun w => .opFX15 (fieldX w)) :=
  decodesAs_of_familyF rfl fun w h => by simp only [decodeFamilyF, h]; rfl
theorem decodesAs_FX18 : DecodesAs 0xF0FF 0xF018 (fun w => .opFX18 (fieldX w)) :=
  decodesAs_of_familyF rfl fun w h => by simp only [decodeFamilyF, h]; rfl
theorem decodesAs_FX1E : DecodesAs 0xF0FF 0xF01E (fun w => .opFX1E (fieldX w)) :=
  decodesAs_of_familyF rfl fun w h => by simp only [decodeFamilyF, h]; rfl
theorem decodesAs_FX29 : DecodesAs 0xF0FF 0xF029 (fun w => .opFX29 (fieldX w)) :=
  decodesAs_of_familyF rfl fun w h => by simp only [decodeFamilyF, h]; rfl
theorem decodesAs_FX33 : DecodesAs 0xF0FF 0xF033 (fun w => .opFX33 (fieldX w)) :=
  decodesAs_of_familyF rfl fun w h => by simp only [decodeFamilyF, h]; rfl
theorem decodesAs_FX55 : DecodesAs 0xF0FF 0xF055 (fun w => .opFX55 (fieldX w)) :=
  decodesAs_of_familyF rfl fun w h => by simp only [decodeFamilyF, h]; rfl
theorem decodesAs_FX65 : DecodesAs 0xF0FF 0xF065 (fun w => .opFX65 (fieldX w)) :=
  decodesAs_of_familyF rfl fun w h => by simp only [decodeFamilyF, h]; rfl

/-! ## The rows of the map: each one decodes, no two of them meet -/

/-- The words of an instruction's row all decode: one arm per row of 30_encoding.md R75. -/
theorem exists_decodesAs_row (i : Instr) : ∃ ins, DecodesAs i.row.mask i.row.value ins := by
  cases i with
  | op00E0 => exact ⟨_, decodesAs_00E0⟩
  | op00EE => exact ⟨_, decodesAs_00EE⟩
  | op1NNN => exact ⟨_, decodesAs_1NNN⟩
  | op2NNN => exact ⟨_, decodesAs_2NNN⟩
  | op3XNN => exact ⟨_, decodesAs_3XNN⟩
  | op4XNN => exact ⟨_, decodesAs_4XNN⟩
  | op5XY0 => exact ⟨_, decodesAs_5XY0⟩
  | op6XNN => exact ⟨_, decodesAs_6XNN⟩
  | op7XNN => exact ⟨_, decodesAs_7XNN⟩
  | op8XY0 => exact ⟨_, decodesAs_8XY0⟩
  | op8XY1 => exact ⟨_, decodesAs_8XY1⟩
  | op8XY2 => exact ⟨_, decodesAs_8XY2⟩
  | op8XY3 => exact ⟨_, decodesAs_8XY3⟩
  | op8XY4 => exact ⟨_, decodesAs_8XY4⟩
  | op8XY5 => exact ⟨_, decodesAs_8XY5⟩
  | op8XY6 => exact ⟨_, decodesAs_8XY6⟩
  | op8XYE => exact ⟨_, decodesAs_8XYE⟩
  | op9XY0 => exact ⟨_, decodesAs_9XY0⟩
  | opANNN => exact ⟨_, decodesAs_ANNN⟩
  | opBNNN => exact ⟨_, decodesAs_BNNN⟩
  | opCXNN => exact ⟨_, decodesAs_CXNN⟩
  | opDXYN => exact ⟨_, decodesAs_DXYN⟩
  | opEX9E => exact ⟨_, decodesAs_EX9E⟩
  | opEXA1 => exact ⟨_, decodesAs_EXA1⟩
  | opFX07 => exact ⟨_, decodesAs_FX07⟩
  | opFX0A => exact ⟨_, decodesAs_FX0A⟩
  | opFX15 => exact ⟨_, decodesAs_FX15⟩
  | opFX18 => exact ⟨_, decodesAs_FX18⟩
  | opFX1E => exact ⟨_, decodesAs_FX1E⟩
  | opFX29 => exact ⟨_, decodesAs_FX29⟩
  | opFX33 => exact ⟨_, decodesAs_FX33⟩
  | opFX55 => exact ⟨_, decodesAs_FX55⟩
  | opFX65 => exact ⟨_, decodesAs_FX65⟩

/-- The word of every instruction lies in the instruction's own row of the map (30_encoding.md R75). -/
theorem rowMatch (i : Instr) : Laws.RowMatch.Statement i := by
  cases i with
  | op00E0 => exact Laws.RowMatch.op00E0
  | op00EE => exact Laws.RowMatch.op00EE
  | op1NNN nnn => exact Laws.RowMatch.op1NNN nnn
  | op2NNN nnn => exact Laws.RowMatch.op2NNN nnn
  | op3XNN x nn => exact Laws.RowMatch.op3XNN x nn
  | op4XNN x nn => exact Laws.RowMatch.op4XNN x nn
  | op5XY0 x y => exact Laws.RowMatch.op5XY0 x y
  | op6XNN x nn => exact Laws.RowMatch.op6XNN x nn
  | op7XNN x nn => exact Laws.RowMatch.op7XNN x nn
  | op8XY0 x y => exact Laws.RowMatch.op8XY0 x y
  | op8XY1 x y => exact Laws.RowMatch.op8XY1 x y
  | op8XY2 x y => exact Laws.RowMatch.op8XY2 x y
  | op8XY3 x y => exact Laws.RowMatch.op8XY3 x y
  | op8XY4 x y => exact Laws.RowMatch.op8XY4 x y
  | op8XY5 x y => exact Laws.RowMatch.op8XY5 x y
  | op8XY6 x y => exact Laws.RowMatch.op8XY6 x y
  | op8XYE x y => exact Laws.RowMatch.op8XYE x y
  | op9XY0 x y => exact Laws.RowMatch.op9XY0 x y
  | opANNN nnn => exact Laws.RowMatch.opANNN nnn
  | opBNNN nnn => exact Laws.RowMatch.opBNNN nnn
  | opCXNN x nn => exact Laws.RowMatch.opCXNN x nn
  | opDXYN x y n => exact Laws.RowMatch.opDXYN x y n
  | opEX9E x => exact Laws.RowMatch.opEX9E x
  | opEXA1 x => exact Laws.RowMatch.opEXA1 x
  | opFX07 x => exact Laws.RowMatch.opFX07 x
  | opFX0A x => exact Laws.RowMatch.opFX0A x
  | opFX15 x => exact Laws.RowMatch.opFX15 x
  | opFX18 x => exact Laws.RowMatch.opFX18 x
  | opFX1E x => exact Laws.RowMatch.opFX1E x
  | opFX29 x => exact Laws.RowMatch.opFX29 x
  | opFX33 x => exact Laws.RowMatch.opFX33 x
  | opFX55 x => exact Laws.RowMatch.opFX55 x
  | opFX65 x => exact Laws.RowMatch.opFX65 x

theorem OpcodeRow.covers_iff {r : OpcodeRow} {w : Opcode} : r.covers w = true ↔ w &&& r.mask = r.value := beq_iff_eq

theorem row_covers_encode (i : Instr) : i.row.covers (encode i) = true := OpcodeRow.covers_iff.2 (rowMatch i).1

theorem row_mem_opcodeMap (i : Instr) : i.row ∈ opcodeMap := (rowMatch i).2

/-- The map holds nothing but the rows of instructions. -/
theorem exists_row_of_mem_opcodeMap {r : OpcodeRow} (h : r ∈ opcodeMap) : ∃ i : Instr, i.row = r := by
  simp only [opcodeMap, List.mem_append, List.mem_map] at h
  obtain (⟨i, -, hi⟩ | ⟨i, -, hi⟩) | ⟨i, -, hi⟩ := h <;> exact ⟨i, hi⟩

/-- Two different rows differ in a bit that both masks keep. -/
theorem opcodeMap_values_differ :
    ∀ r ∈ opcodeMap, ∀ r' ∈ opcodeMap, r.value &&& r'.mask = r'.value &&& r.mask → r = r' := by decide

/-- The rows are pairwise disjoint (30_encoding.md R74): a word of both would give them the same value under both masks. -/
theorem row_eq_of_covers {w : Opcode} {r r' : OpcodeRow} (hr : r ∈ opcodeMap) (hr' : r' ∈ opcodeMap)
    (h : r.covers w = true) (h' : r'.covers w = true) : r = r' := by
  refine opcodeMap_values_differ r hr r' hr' ?_
  rw [← OpcodeRow.covers_iff.1 h, ← OpcodeRow.covers_iff.1 h', BitVec.and_assoc, BitVec.and_assoc, BitVec.and_comm r.mask]

/-- The row of what a word decodes to covers the word. -/
theorem row_covers_of_decodeWord {w : Opcode} {i : Instr} (h : decodeWord w = some i) : i.row.covers w = true := by
  rw [← encode_of_decodeWord h]
  exact row_covers_encode i

/-- A covered word decodes, and by disjointness into the row that covers it. -/
theorem decodeWord_of_covers {w : Opcode} {r : OpcodeRow} (hr : r ∈ opcodeMap) (hw : r.covers w = true) :
    ∃ i, decodeWord w = some i ∧ i.row = r := by
  obtain ⟨j, rfl⟩ := exists_row_of_mem_opcodeMap hr
  obtain ⟨ins, hins⟩ := exists_decodesAs_row j
  have hdec : decodeWord w = some (ins w) := hins w (OpcodeRow.covers_iff.1 hw)
  exact ⟨ins w, hdec, row_eq_of_covers (row_mem_opcodeMap _) hr (row_covers_of_decodeWord hdec) hw⟩

theorem decodeWord_eq_none_of_not_covered {w : Opcode} (h : ∀ r ∈ opcodeMap, r.covers w = false) : decodeWord w = none := by
  refine Option.eq_none_iff_forall_ne_some.2 fun i hi => ?_
  have hcov := row_covers_of_decodeWord hi
  rw [h i.row (row_mem_opcodeMap i)] at hcov
  exact Bool.false_ne_true hcov

/-- Settles O2: a covered word decodes into its row, and every decoded word is covered by the row of its instruction. -/
theorem decoderFollowsTheOpcodeMap : Obligations.DecoderFollowsTheOpcodeMap := by
  refine ⟨fun w r hr r' hr' => row_eq_of_covers hr hr', fun w r hr hw => ?_, fun w => decodeWord_eq_none_of_not_covered,
    fun s i => Machine.step_of_decodeWord_some, fun s => Machine.step_of_decodeWord_none⟩
  obtain ⟨i, hdec, hrow⟩ := decodeWord_of_covers hr hw
  exact ⟨i, hdec, hrow, encode_of_decodeWord hdec⟩

end Sys2Proof
end

section
/-! ## Frames: an update of an element in the list keeps the frame, and a composite update is framed update by update -/

namespace Sys2Proof

open Sys2Proof.Machine

theorem SameAt.refl (s : State) (e : Element) : SameAt s s e := by cases e <;> rfl

theorem Frame.refl (changed : List Element) (s : State) : Frame changed s s := fun e _ => SameAt.refl s e

section
variable {changed : List Element} {s t : State}

theorem Frame.setPc (h : Frame changed s t) (hmem : Element.pc ∈ changed) (a : PcWord) : Frame changed s (t.setPc a) := by
  intro e he
  cases e with
  | pc => exact absurd hmem he
  | _ => exact h _ he

theorem Frame.setStack (h : Frame changed s t) (hmem : Element.stack ∈ changed) (k : List PcWord) :
    Frame changed s (t.setStack k) := by
  intro e he
  cases e with
  | stack => exact absurd hmem he
  | _ => exact h _ he

theorem Frame.skipIf (h : Frame changed s t) (hmem : Element.pc ∈ changed) (c : Bool) : Frame changed s (t.skipIf c) := by
  cases c with
  | false => exact h.setPc hmem (t.pc + 2)
  | true => exact h.setPc hmem (t.pc + 4)
end

end Sys2Proof
end

section
/-! ## Control flow (40_control_flow.md R100 to R107): what jump, call, return and the conditional skips answer -/

namespace Sys2Proof.Machine

theorem toNat_jumpTarget (nnn : Addr) : (jumpTarget nnn).toNat = nnn.toNat :=
  BitVec.toNat_setWidth_of_le (by decide)

theorem State.sp_of_stack_concat {s : State} {older : List PcWord} {newest : PcWord} (h : s.stack = older ++ [newest]) :
    s.sp = older.length + 1 := by
  simp [State.sp, h]

theorem exec_op1NNN (nnn : Addr) (s : State) : exec (.op1NNN nnn) s = .next (s.setPc (jumpTarget nnn)) := rfl

theorem exec_op2NNN_of_room {s : State} (h : s.sp < 16) (nnn : Addr) :
    exec (.op2NNN nnn) s = .next ((s.push s.pc).setPc (jumpTarget nnn)) :=
  ((exec2NNN_cases nnn s).resolve_left fun hfull => by omega).2

theorem exec_op2NNN_of_full {s : State} (h : 16 ≤ s.sp) (nnn : Addr) :
    exec (.op2NNN nnn) s = .fault (.stackOverflow (encode (.op2NNN nnn)) s.pc) :=
  ((exec2NNN_cases nnn s).resolve_right fun hroom => by omega).2

theorem exec_op3XNN (x : RegNum) (nn : Byte) (s : State) :
    exec (.op3XNN x nn) s = .next (s.skipIf (s.getV x == nn)) := rfl

theorem exec_op4XNN (x : RegNum) (nn : Byte) (s : State) :
    exec (.op4XNN x nn) s = .next (s.skipIf (s.getV x != nn)) := rfl

theorem exec_op5XY0 (x y : RegNum) (s : State) :
    exec (.op5XY0 x y) s = .next (s.skipIf (s.getV x == s.getV y)) := rfl

theorem exec_op9XY0 (x y : RegNum) (s : State) :
    exec (.op9XY0 x y) s = .next (s.skipIf (s.getV x != s.getV y)) := rfl

/-- A skip on equal bytes goes 4 forward exactly when they are the same number, and changes only PC (R104, R106). -/
theorem skip_on_equal {i : Instr} {s : State} {a b : Byte} (h : exec i s = .next (s.skipIf (a == b))) :
    ∃ t, exec i s = .next t ∧ t.pc = s.pc + (if a.toNat = b.toNat then 4 else 2) ∧ Frame [.pc] s t :=
  ⟨_, h, by simp [BitVec.toNat_inj], (Frame.refl [.pc] s).skipIf (by simp) _⟩

/-- A skip on different bytes goes 2 forward exactly when they are the same number, and changes only PC (R105, R107). -/
theorem skip_on_different {i : Instr} {s : State} {a b : Byte} (h : exec i s = .next (s.skipIf (a != b))) :
    ∃ t, exec i s = .next t ∧ t.pc = s.pc + (if a.toNat = b.toNat then 2 else 4) ∧ Frame [.pc] s t :=
  ⟨_, h, by simp [BitVec.toNat_inj], (Frame.refl [.pc] s).skipIf (by simp) _⟩

/-- Settles O7: the target is NNN as a number, and a fetch at 0xFFF is out of bounds. -/
theorem jumpSetsPc : Obligations.JumpSetsPc := by
  refine ⟨decodesAs_1NNN, fun nnn s => ?_⟩
  refine ⟨_, exec_op1NNN nnn s, toNat_jumpTarget nnn, (Frame.refl [.pc] s).setPc (by simp) _, ?_⟩
  rintro rfl
  exact ⟨_, _, step_of_fetch_fault (s := s.setPc (jumpTarget 0xFFF)) (toNat_jumpTarget 0xFFF).ge⟩

/-- Settles O9: the call with room on the stack, and the call on the full stack. -/
theorem callPushesItsOwnAddress : Obligations.CallPushesItsOwnAddress := by
  refine ⟨decodesAs_2NNN, fun nnn s hroom => ?_, fun nnn s hfull => ?_⟩
  · exact ⟨_, exec_op2NNN_of_room hroom nnn, rfl, List.length_append, toNat_jumpTarget nnn,
      ((Frame.refl [.pc, .stack] s).setStack (by simp) _).setPc (by simp) _⟩
  · exact stopsWith_of_exec (exec_op2NNN_of_full hfull.ge nnn)

/-- Settles O10: the return from a stack with a newest entry, and the return from the empty stack. -/
theorem returnTakesTheNewestEntry : Obligations.ReturnTakesTheNewestEntry := by
  refine ⟨decodesAs_00EE, fun s older newest hstack => ?_, fun s hempty => ?_⟩
  · have hsp : older.length = s.sp - 1 := by rw [State.sp_of_stack_concat hstack, Nat.add_sub_cancel]
    exact ⟨_, exec00EE_of_stack hstack, rfl, hsp, rfl,
      ((Frame.refl [.pc, .stack] s).setStack (by simp) _).setPc (by simp) _⟩
  · exact stopsWith_of_exec (exec00EE_of_empty hempty)

/-- Settles O12: each of the four is a skip on equal or on different bytes. -/
theorem conditionalSkipsCompareWholeRegisters : Obligations.ConditionalSkipsCompareWholeRegisters := by
  refine ⟨decodesAs_3XNN, decodesAs_4XNN, decodesAs_5XY0, decodesAs_9XY0, ?op3XNN, ?op4XNN, ?op5XY0, ?op9XY0⟩
  case op3XNN => exact fun x nn s => skip_on_equal (exec_op3XNN x nn s)
  case op4XNN => exact fun x nn s => skip_on_different (exec_op4XNN x nn s)
  case op5XY0 => exact fun x y s => skip_on_equal (exec_op5XY0 x y s)
  case op9XY0 => exact fun x y s => skip_on_different (exec_op9XY0 x y s)

end Sys2Proof.Machine
end

section
/-! ## Frames: a register write and the PC advance -/

namespace Sys2Proof

open Sys2Proof.Machine

section
variable {changed : List Element} {s t : State}

theorem Frame.setV {x : RegNum} (h : Frame changed s t) (hmem : Element.v x ∈ changed) (b : Byte) :
    Frame changed s (t.setV x b) := by
  intro e he
  cases e with
  | v y =>
    have hne : y ≠ x := fun hyx => he (hyx ▸ hmem)
    exact (t.getV_setV_ne b hne).trans (h _ he)
  | _ => exact h _ he

theorem Frame.advance (h : Frame changed s t) (hmem : Element.pc ∈ changed) : Frame changed s t.advance :=
  h.setPc hmem (t.pc + 2)
end

end Sys2Proof
end

section
/-! ## Loads and copies (41_load_alu.md R120, R122): one register is written and PC advances -/

namespace Sys2Proof.Machine

theorem exec_op6XNN (x : RegNum) (nn : Byte) (s : State) : exec (.op6XNN x nn) s = .next (s.setV x nn).advance := rfl

theorem exec_op8XY0 (x y : RegNum) (s : State) : exec (.op8XY0 x y) s = .next (s.setV x (s.getV y)).advance := rfl

/-- An instruction that writes a byte to V[X] and advances completes with that byte there and changes only PC and V[X]. -/
theorem writes_register_and_advances {i : Instr} {s : State} {x : RegNum} {b : Byte}
    (h : exec i s = .next (s.setV x b).advance) :
    ∃ t, exec i s = .next t ∧ t.getV x = b ∧ t.pc = s.pc + 2 ∧ Frame [.pc, .v x] s t :=
  ⟨_, h, s.getV_setV_self x b, rfl, ((Frame.refl [.pc, .v x] s).setV (by simp) b).advance (by simp)⟩

/-- Settles O13: both instructions write one register, with NN or with the old V[Y], and advance. -/
theorem loadImmediateAndCopy : Obligations.LoadImmediateAndCopy := by
  refine ⟨decodesAs_6XNN, decodesAs_8XY0, ?op6XNN, ?op8XY0⟩
  case op6XNN => exact fun x nn s => writes_register_and_advances (exec_op6XNN x nn s)
  case op8XY0 => exact fun x y s => writes_register_and_advances (exec_op8XY0 x y s)

end Sys2Proof.Machine
end

section
/-! ## Frames: the index register, a block of memory, a block of registers, and the PC advance after any of them -/

namespace Sys2Proof

open Sys2Proof.Machine

theorem Frame.setI {changed : List Element} {s t : State} (h : Frame changed s t) (hmem : Element.i ∈ changed) (a : Addr) :
    Frame changed s (t.setI a) := by
  intro e he
  cases e with
  | i => exact absurd hmem he
  | _ => exact h _ he

theorem FrameExcept.advance {changed : Element → Prop} {s t : State} (h : FrameExcept changed s t) :
    FrameExcept (fun e => e = .pc ∨ changed e) s t.advance := by
  intro e he
  obtain ⟨hpc, hchanged⟩ := not_or.1 he
  cases e with
  | pc => exact absurd rfl hpc
  | _ => exact h _ hchanged

/-- A block write inside memory changes only the cells of the block (20_memory.md R56). -/
theorem frameExcept_writeBytes {s : State} (hwf : s.mem.wf = true) {a : Nat} {bs : List Byte}
    (hfit : a + bs.length ≤ Config.memSize) :
    FrameExcept (Cells a bs.length) s (s.setMem (s.mem.writeBytes a bs)) := by
  intro e he
  cases e with
  | mem b =>
    have hout : ¬ (a ≤ b ∧ b < a + bs.length) := fun ⟨hle, hlt⟩ => he ⟨b, rfl, hle, hlt⟩
    exact (Memory.read_writeBytes hwf hfit b).trans (if_neg hout)
  | _ => rfl

/-- A block load of X + 1 bytes changes only the registers V[0] to V[X] (42_index_memory.md R145). -/
theorem frameExcept_loadRegs (s : State) (m : Memory) (a : Nat) (x : RegNum) :
    FrameExcept (fun e => ∃ k : RegNum, k.toNat ≤ x.toNat ∧ e = .v k) s
      (s.setRegs (loadRegs m a (blockSize x) s.v)) := by
  intro e he
  cases e with
  | v k =>
    have habove : ¬ k.toNat < blockSize x := fun hk => he ⟨k, Nat.le_of_lt_succ hk, rfl⟩
    exact (s.getV_setRegs_loadRegs m a (blockSize x) k).trans (if_neg habove)
  | _ => rfl

end Sys2Proof
end

section
/-! ## Index load and memory transfer (42_index_memory.md R140, R143 to R145): checked accesses that complete or stop -/

namespace Sys2Proof.Machine

/-! ### What the four instructions answer -/

theorem exec_opANNN (nnn : Addr) (s : State) : exec (.opANNN nnn) s = .next (s.setI nnn).advance := rfl

theorem exec_opFX33 (x : RegNum) (s : State) :
    exec (.opFX33 x) s = guardAccess .memWrite 3 (.opFX33 x) s
      (s.setMem (s.mem.writeBytes s.base (decimalDigits (s.getV x)))).advance := rfl

theorem exec_opFX55 (x : RegNum) (s : State) :
    exec (.opFX55 x) s = guardAccess .memWrite (blockSize x) (.opFX55 x) s
      (s.setMem (s.mem.writeBytes s.base (s.firstRegs (blockSize x)))).advance := rfl

theorem exec_opFX65 (x : RegNum) (s : State) :
    exec (.opFX65 x) s = guardAccess .memRead (blockSize x) (.opFX65 x) s
      (s.setRegs (loadRegs s.mem s.base (blockSize x) s.v)).advance := rfl

/-! ### Checked accesses (20_memory.md R55, R57) -/

/-- An instruction that is a checked access stops when a byte of the access lies past the end of memory. -/
theorem stopsWith_of_access_past_end {c : BoundsCause} {n : Nat} {i : Instr} {s t : State}
    (hexec : exec i s = guardAccess c n i s t) (hpast : Config.memSize < s.base + n) :
    ∃ op p, StopsWith i s (.outOfBounds c 0x1000 op p) :=
  ⟨_, _, stopsWith_of_exec (hexec.trans (guardAccess_fault.2 ⟨hpast, rfl⟩))⟩

/-- An instruction that is a checked store of a block at I, all of it inside memory, completes with the block's bytes in
their cells and changes only those cells and PC. -/
theorem stores_block_and_advances {c : BoundsCause} {n : Nat} {i : Instr} {s : State} {bs : List Byte}
    (hexec : exec i s = guardAccess c n i s (s.setMem (s.mem.writeBytes s.base bs)).advance)
    (hlen : bs.length = n) (hwf : s.mem.wf = true) (hfit : s.base + n ≤ Config.memSize) :
    ∃ t, exec i s = .next t ∧ (∀ k < n, t.mem.read (s.base + k) = bs.getD k 0) ∧
      t.pc = s.pc + 2 ∧ FrameExcept (fun e => e = .pc ∨ Cells s.base n e) s t := by
  subst hlen
  refine ⟨_, hexec.trans (guardAccess_next.2 ⟨hfit, rfl⟩), fun k hk => ?_, rfl, (frameExcept_writeBytes hwf hfit).advance⟩
  have hin : s.base ≤ s.base + k ∧ s.base + k < s.base + bs.length := by omega
  have hread := (Memory.read_writeBytes hwf hfit (s.base + k)).trans (if_pos hin)
  rwa [Nat.add_sub_cancel_left] at hread

/-! ### The blocks stored -/

/-- Each digit fits in its byte (42_index_memory.md R143). -/
theorem toNat_decimalDigits (b : Byte) :
    ((decimalDigits b).getD 0 0).toNat = b.toNat / 100 ∧ ((decimalDigits b).getD 1 0).toNat = b.toNat / 10 % 10 ∧
      ((decimalDigits b).getD 2 0).toNat = b.toNat % 10 := by
  have hb : b.toNat < 256 := b.isLt
  refine ⟨?_, ?_, ?_⟩ <;> exact Nat.mod_eq_of_lt (by omega)

theorem State.length_firstRegs_blockSize (s : State) (x : RegNum) : (s.firstRegs (blockSize x)).length = blockSize x := by
  rw [State.length_firstRegs]
  exact Nat.min_eq_left (regNum_lt x)

/-! ### The statements -/

/-- Settles O20: I is written and PC advances. -/
theorem loadIndexSetsI : Obligations.LoadIndexSetsI := by
  refine ⟨decodesAs_ANNN, fun nnn s => ?_⟩
  exact ⟨_, exec_opANNN nnn s, rfl, rfl, ((Frame.refl [.pc, .i] s).setI (by simp) nnn).advance (by simp)⟩

/-- Settles O22: FX33 is a checked store of the three digits. -/
theorem storeDecimalDigits : Obligations.StoreDecimalDigits := by
  refine ⟨decodesAs_FX33, fun x s hwf hfit => ?_, fun x s hpast => ?_⟩
  · obtain ⟨t, hexec, hread, hpc, hframe⟩ := stores_block_and_advances (exec_opFX33 x s) rfl hwf (Nat.succ_le_succ hfit)
    obtain ⟨hundreds, tens, ones⟩ := toNat_decimalDigits (s.getV x)
    refine ⟨t, hexec, ?_, ?_, ?_, hpc, hframe⟩
    · exact (congrArg BitVec.toNat (hread 0 (by omega))).trans hundreds
    · exact (congrArg BitVec.toNat (hread 1 (by omega))).trans tens
    · exact (congrArg BitVec.toNat (hread 2 (by omega))).trans ones
  · exact stopsWith_of_access_past_end (exec_opFX33 x s) (Nat.succ_lt_succ hpast)

/-- Settles O23: FX55 is a checked store of the first X + 1 registers. -/
theorem storeRegistersUpToX : Obligations.StoreRegistersUpToX := by
  refine ⟨decodesAs_FX55, fun x s hwf hfit => ?_, fun x s hpast => ?_⟩
  · obtain ⟨t, hexec, hread, hpc, hframe⟩ :=
      stores_block_and_advances (exec_opFX55 x s) (s.length_firstRegs_blockSize x) hwf (Nat.succ_le_succ hfit)
    refine ⟨t, hexec, fun k hk => ?_, hpc, hframe⟩
    have hk : k.toNat < blockSize x := Nat.lt_succ_of_le hk
    exact (hread k.toNat hk).trans (s.getD_firstRegs (blockSize x) k hk)
  · exact stopsWith_of_access_past_end (exec_opFX55 x s) (Nat.succ_lt_succ hpast)

/-- Settles O24: FX65 is a checked load of the first X + 1 registers. -/
theorem loadRegistersUpToX : Obligations.LoadRegistersUpToX := by
  refine ⟨decodesAs_FX65, fun x s hfit => ?_, fun x s hpast => ?_⟩
  · have hnext := (exec_opFX65 x s).trans (guardAccess_next.2 ⟨Nat.succ_le_succ hfit, rfl⟩)
    refine ⟨_, hnext, fun k hk => ?_, rfl, (frameExcept_loadRegs s s.mem s.base x).advance⟩
    have hk : k.toNat < blockSize x := Nat.lt_succ_of_le hk
    exact (s.getV_setRegs_loadRegs s.mem s.base (blockSize x) k).trans (if_pos hk)
  · exact stopsWith_of_access_past_end (exec_opFX65 x s) (Nat.succ_lt_succ hpast)

end Sys2Proof.Machine
end

section
/-! ## Frames: the frame buffer and the redraw flag -/

namespace Sys2Proof

open Sys2Proof.Machine

/-- A new frame buffer changes only pixels (10_state.md R33). -/
theorem frameExcept_setFb (s : State) (f : FrameBuffer) : FrameExcept (fun e => ∃ p, e = .pixel p) s (s.setFb f) := by
  intro e he
  cases e with
  | pixel p => exact absurd ⟨p, rfl⟩ he
  | _ => rfl

theorem FrameExcept.setRedraw {changed : Element → Prop} {s t : State} (h : FrameExcept changed s t) (b : Bool) :
    FrameExcept (fun e => e = .redraw ∨ changed e) s (t.setRedraw b) := by
  intro e he
  obtain ⟨hredraw, hchanged⟩ := not_or.1 he
  cases e with
  | redraw => exact absurd rfl hredraw
  | _ => exact h _ hchanged

end Sys2Proof
end

section
/-! ## Clearing the screen (43_display.md R160) -/

namespace Sys2Proof.Machine

theorem exec_op00E0 (s : State) : exec .op00E0 s = .next ((s.setFb blankFb).setRedraw true).advance := rfl

/-- Settles O27: the frame buffer becomes the blank one, whatever it was, REDRAW is set and PC advances. -/
theorem clearScreenZeroesEveryPixel : Obligations.ClearScreenZeroesEveryPixel := by
  refine ⟨decodesAs_00E0, fun s => ?_⟩
  exact ⟨_, exec_op00E0 s, fun p _ => pixelOf_blankFb p, rfl, rfl,
    ((frameExcept_setFb s blankFb).setRedraw true).advance⟩

end Sys2Proof.Machine
end

section
/-! ## Frames: the two timers -/

namespace Sys2Proof

open Sys2Proof.Machine

section
variable {changed : List Element} {s t : State}

theorem Frame.setDt (h : Frame changed s t) (hmem : Element.dt ∈ changed) (b : Byte) : Frame changed s (t.setDt b) := by
  intro e he
  cases e with
  | dt => exact absurd hmem he
  | _ => exact h _ he

theorem Frame.setSt (h : Frame changed s t) (hmem : Element.st ∈ changed) (b : Byte) : Frame changed s (t.setSt b) := by
  intro e he
  cases e with
  | st => exact absurd hmem he
  | _ => exact h _ he
end

end Sys2Proof
end

section
/-! ## Timer instructions (44_keypad_timers.md R173 to R175): one byte moves between V[X] and a timer, and PC advances -/

namespace Sys2Proof.Machine

theorem exec_opFX07 (x : RegNum) (s : State) : exec (.opFX07 x) s = .next (s.setV x s.dt).advance := rfl

theorem exec_opFX15 (x : RegNum) (s : State) : exec (.opFX15 x) s = .next (s.setDt (s.getV x)).advance := rfl

theorem exec_opFX18 (x : RegNum) (s : State) : exec (.opFX18 x) s = .next (s.setSt (s.getV x)).advance := rfl

/-- The tone sounds exactly while the sound timer is not zero as a number (60_exceptions.md R226). -/
theorem State.tone_eq_true_iff (s : State) : s.tone = true ↔ s.st.toNat ≠ 0 :=
  bne_iff_ne.trans BitVec.toNat_ne_iff_ne.symm

/-- Settles O31: FX07 writes a register, FX15 and FX18 write a timer, and the tone follows the sound timer just written. -/
theorem timerInstructionsMoveOneByte : Obligations.TimerInstructionsMoveOneByte := by
  refine ⟨decodesAs_FX07, decodesAs_FX15, decodesAs_FX18, fun x s => ⟨?opFX07, ?opFX15, ?opFX18⟩⟩
  case opFX07 => exact writes_register_and_advances (exec_opFX07 x s)
  case opFX15 =>
    exact ⟨_, exec_opFX15 x s, rfl, rfl, ((Frame.refl [.pc, .dt] s).setDt (by simp) _).advance (by simp)⟩
  case opFX18 =>
    exact ⟨_, exec_opFX18 x s, rfl, State.tone_eq_true_iff _, rfl,
      ((Frame.refl [.pc, .st] s).setSt (by simp) _).advance (by simp)⟩

end Sys2Proof.Machine
end

section
/-! ## Frames: the redraw flag among listed elements -/

namespace Sys2Proof

open Sys2Proof.Machine

theorem Frame.setRedraw {changed : List Element} {s t : State} (h : Frame changed s t) (hmem : Element.redraw ∈ changed)
    (b : Bool) : Frame changed s (t.setRedraw b) := fun e he =>
  FrameExcept.setRedraw h b e (not_or.2 ⟨fun hredraw => he (hredraw ▸ hmem), he⟩)

end Sys2Proof
end

section
/-! ## The host's display operations (60_exceptions.md R223, R224): two reads and the clearing of the redraw flag -/

namespace Sys2Proof.Machine

/-- The frame buffer is row-major: pixel y*64 + x is bit x of row y (10_state.md R33). -/
theorem pixelOf_row_column (f : FrameBuffer) {x y : Nat} (hx : x < 64) (hy : y < 32) :
    pixelOf f (y * 64 + x) = f[y].getLsbD x := by
  have hrow : (y * 64 + x) / 64 = y := by omega
  have hcolumn : (y * 64 + x) % 64 = x := by omega
  simp [pixelOf, rowOf, hrow, hcolumn, hy]

theorem fbRead_eq (s : State) : fbRead s = (List.range 2048).map s.pixel := rfl

theorem length_fbRead (s : State) : (fbRead s).length = 2048 := by
  rw [fbRead_eq, List.length_map, List.length_range]

theorem getElem?_fbRead (s : State) {p : Nat} (hp : p < 2048) : (fbRead s)[p]? = some (s.pixel p) := by
  rw [fbRead_eq, List.getElem?_map, List.getElem?_range hp, Option.map_some]

theorem perform_fbRead (font : FontTable) (s : State) : perform font .fbRead s = .next s := rfl

theorem perform_redrawRead (font : FontTable) (s : State) : perform font .redrawRead s = .next s := rfl

theorem perform_redrawClear (font : FontTable) (s : State) : perform font .redrawClear s = .next (s.setRedraw false) := rfl

/-- Settles O49: each element read is the pixel of its index, both reads leave the state alone, and the clear writes REDRAW only. -/
theorem displayReadsAndRedrawClear : Obligations.DisplayReadsAndRedrawClear := by
  intro font s
  refine ⟨length_fbRead s, fun x hx y hy => ?_, perform_fbRead font s, rfl, perform_redrawRead font s,
    _, perform_redrawClear font s, s.setRedraw_redraw false, (Frame.refl [.redraw] s).setRedraw (by simp) false⟩
  have hindex : y * 64 + x < 2048 := by omega
  calc (fbRead s)[y * 64 + x]?
    _ = some (s.pixel (y * 64 + x)) := getElem?_fbRead s hindex
    _ = some (s.fb[y].getLsbD x) := congrArg some (pixelOf_row_column s.fb hx hy)

end Sys2Proof.Machine
end

section
/-! ## Encode, then decode (30_encoding.md R70 to R75): the word of an instruction decodes to the instruction -/

namespace Sys2Proof

/-! ### The decoder on bytes -/

/-- Two bytes and whatever follows decode exactly as their word does, and the bytes after them are handed back. -/
theorem decode_cons_cons {hi lo : Byte} {rest rest' : List Byte} {i : Instr} :
    decode (hi :: lo :: rest) = .ok (i, rest') ↔ decodeWord (wordOfBytes hi lo) = some i ∧ rest = rest' := by
  cases h : decodeWord (wordOfBytes hi lo) <;> simp [decode, h]

/-- The word of an instruction is under the mask of the instruction's own row, so the row's decoding applies to it; what is
left to see is that the fields read back are the operands. -/
theorem decodeWord_encode_of_row {i : Instr} {ins : Opcode → Instr} (hrow : DecodesAs i.row.mask i.row.value ins)
    (hfields : ins (encode i) = i) : decodeWord (encode i) = some i :=
  (hrow _ (rowMatch i).1).trans (congrArg some hfields)

theorem decodeWord_encode (i : Instr) : decodeWord (encode i) = some i := by
  cases i with
  | op00E0 => exact decodeWord_encode_of_row decodesAs_00E0 rfl
  | op00EE => exact decodeWord_encode_of_row decodesAs_00EE rfl
  | op1NNN => exact decodeWord_encode_of_row decodesAs_1NNN (by simp [encode])
  | op2NNN => exact decodeWord_encode_of_row decodesAs_2NNN (by simp [encode])
  | op3XNN => exact decodeWord_encode_of_row decodesAs_3XNN (by simp [encode])
  | op4XNN => exact decodeWord_encode_of_row decodesAs_4XNN (by simp [encode])
  | op5XY0 => exact decodeWord_encode_of_row decodesAs_5XY0 (by simp [encode])
  | op6XNN => exact decodeWord_encode_of_row decodesAs_6XNN (by simp [encode])
  | op7XNN => exact decodeWord_encode_of_row decodesAs_7XNN (by simp [encode])
  | op8XY0 => exact decodeWord_encode_of_row decodesAs_8XY0 (by simp [encode])
  | op8XY1 => exact decodeWord_encode_of_row decodesAs_8XY1 (by simp [encode])
  | op8XY2 => exact decodeWord_encode_of_row decodesAs_8XY2 (by simp [encode])
  | op8XY3 => exact decodeWord_encode_of_row decodesAs_8XY3 (by simp [encode])
  | op8XY4 => exact decodeWord_encode_of_row decodesAs_8XY4 (by simp [encode])
  | op8XY5 => exact decodeWord_encode_of_row decodesAs_8XY5 (by simp [encode])
  | op8XY6 => exact decodeWord_encode_of_row decodesAs_8XY6 (by simp [encode])
  | op8XYE => exact decodeWord_encode_of_row decodesAs_8XYE (by simp [encode])
  | op9XY0 => exact decodeWord_encode_of_row decodesAs_9XY0 (by simp [encode])
  | opANNN => exact decodeWord_encode_of_row decodesAs_ANNN (by simp [encode])
  | opBNNN => exact decodeWord_encode_of_row decodesAs_BNNN (by simp [encode])
  | opCXNN => exact decodeWord_encode_of_row decodesAs_CXNN (by simp [encode])
  | opDXYN => exact decodeWord_encode_of_row decodesAs_DXYN (by simp [encode])
  | opEX9E => exact decodeWord_encode_of_row decodesAs_EX9E (by simp [encode])
  | opEXA1 => exact decodeWord_encode_of_row decodesAs_EXA1 (by simp [encode])
  | opFX07 => exact decodeWord_encode_of_row decodesAs_FX07 (by simp [encode])
  | opFX0A => exact decodeWord_encode_of_row decodesAs_FX0A (by simp [encode])
  | opFX15 => exact decodeWord_encode_of_row decodesAs_FX15 (by simp [encode])
  | opFX18 => exact decodeWord_encode_of_row decodesAs_FX18 (by simp [encode])
  | opFX1E => exact decodeWord_encode_of_row decodesAs_FX1E (by simp [encode])
  | opFX29 => exact decodeWord_encode_of_row decodesAs_FX29 (by simp [encode])
  | opFX33 => exact decodeWord_encode_of_row decodesAs_FX33 (by simp [encode])
  | opFX55 => exact decodeWord_encode_of_row decodesAs_FX55 (by simp [encode])
  | opFX65 => exact decodeWord_encode_of_row decodesAs_FX65 (by simp [encode])

/-- Settles O1: the two bytes join to the instruction's word again, and that word decodes to the instruction. -/
theorem encodeThenDecodeGivesTheInstruction : Obligations.EncodeThenDecodeGivesTheInstruction := by
  intro i rest _
  refine decode_cons_cons.2 ⟨?_, rfl⟩
  rw [wordOfBytes_split, decodeWord_encode]

/-- Settles O4: each word is closed, so the decoder computes its answer. -/
theorem sampleWordsDecodeAsTheMapSays : Obligations.SampleWordsDecodeAsTheMapSays := by
  unfold Obligations.SampleWordsDecodeAsTheMapSays
  decide

/-- Settles O5: the two bytes at PC decode as the word at PC does. -/
theorem stepRunsTheDecodedInstruction : Obligations.StepRunsTheDecodedInstruction := by
  intro s i hpc hdec _
  exact Machine.step_of_decodeWord_some (by omega) (decode_cons_cons.1 hdec).1

end Sys2Proof
end

section
/-! ## Unsupported words (30_encoding.md R80 to R83), family by family -/

namespace Sys2Proof

/-- A family is the range of 0x1000 words under its top nibble (30_encoding.md R71). -/
theorem toNat_range_of_fieldOp {w : Opcode} {k : Nat} (h : (fieldOp w).toNat = k) :
    k * 0x1000 ≤ w.toNat ∧ w.toNat < k * 0x1000 + 0x1000 := by
  have hw : w.toNat < 0x10000 := w.isLt
  rw [toNat_fieldOp] at h
  omega

theorem fieldNN_eq_iff {w : Opcode} {b : Byte} : fieldNN w = b ↔ w.toNat % 256 = b.toNat := by
  rw [← toNat_fieldNN, BitVec.toNat_inj]

theorem decodeFamily8_eq_none_iff {w : Opcode} :
    decodeFamily8 w = none ↔ w.toNat % 16 ∈ [0x7, 0x8, 0x9, 0xA, 0xB, 0xC, 0xD, 0xF] := by
  have hn : w.toNat % 16 < 16 := Nat.mod_lt _ (by decide)
  rw [decodeFamily8, toNat_fieldN]
  generalize w.toNat % 16 = n at hn
  interval_cases n <;> simp

/-- A guarded answer is missing exactly when the guard fails and what comes after it gives none. -/
theorem ite_some_eq_none_iff {c : Prop} [Decidable c] {i : Instr} {o : Option Instr} :
    (if c then some i else o) = none ↔ ¬ c ∧ o = none := by
  split <;> simp [*]

theorem ite_fieldN_eq_none_iff {w : Opcode} {i : Instr} :
    (if fieldN w = 0 then some i else none) = none ↔ w.toNat % 16 ≠ 0 := by
  rw [ite_some_eq_none_iff, ← toNat_fieldN, ← BitVec.toNat_inj]
  exact and_iff_left rfl

theorem decodeFamilyF_eq_none_iff {w : Opcode} :
    decodeFamilyF w = none ↔ w.toNat % 256 ∉ [0x07, 0x0A, 0x15, 0x18, 0x1E, 0x29, 0x33, 0x55, 0x65] := by
  simp [decodeFamilyF, ite_some_eq_none_iff, fieldNN_eq_iff]

/-- Settles O3: the family fixes the range of the word, and in each family the answer is none on the listed words only. -/
theorem unsupportedWordsAreTheListedOnes : Obligations.UnsupportedWordsAreTheListedOnes := by
  intro w
  simp only [List.mem_cons, List.not_mem_nil, or_false]
  unfold decodeWord
  split
  case h_1 h =>
    have hrange := toNat_range_of_fieldOp h
    simp only [ite_some_eq_none_iff, ← BitVec.toNat_inj, BitVec.ofNat_eq_ofNat, BitVec.toNat_ofNat, and_true]
    omega
  case h_6 h =>
    have hrange := toNat_range_of_fieldOp h
    rw [ite_fieldN_eq_none_iff]
    omega
  case h_9 h =>
    have hrange := toNat_range_of_fieldOp h
    simp only [decodeFamily8_eq_none_iff, List.mem_cons, List.not_mem_nil, or_false]
    omega
  case h_10 h =>
    have hrange := toNat_range_of_fieldOp h
    rw [ite_fieldN_eq_none_iff]
    omega
  case h_15 h =>
    have hrange := toNat_range_of_fieldOp h
    simp only [ite_some_eq_none_iff, fieldNN_eq_iff, BitVec.ofNat_eq_ofNat, BitVec.toNat_ofNat, and_true]
    omega
  case h_16 =>
    have hop : fieldOp w = 15 := fieldOp_eq_15 (by intro k hk; interval_cases k <;> assumption)
    have hrange := toNat_range_of_fieldOp (k := 15) (congrArg BitVec.toNat hop)
    simp only [decodeFamilyF_eq_none_iff, List.mem_cons, List.not_mem_nil, or_false]
    omega
  all_goals
    rename_i h
    have hrange := toNat_range_of_fieldOp h
    refine iff_of_false nofun ?_
    omega

end Sys2Proof
end

section
/-! ## Jump with offset, and return after call (40_control_flow.md section 2, R101 to R103) -/

namespace Sys2Proof.Machine

/-- A 13-bit sum fits the 16 bits of PC (40_control_flow.md R103). -/
theorem State.toNat_offsetTarget (s : State) (nnn : Addr) :
    (s.offsetTarget nnn).toNat = nnn.toNat + (s.getV 0).toNat := by
  have hnnn : nnn.toNat < 4096 := nnn.isLt
  have hv : (s.getV 0).toNat < 256 := (s.getV 0).isLt
  simp only [State.offsetTarget, BitVec.toNat_add, BitVec.toNat_setWidth]
  omega

theorem exec_opBNNN (nnn : Addr) (s : State) : exec (.opBNNN nnn) s = .next (s.setPc (s.offsetTarget nnn)) := rfl

theorem exec_op00EE_of_stack {s : State} {older : List PcWord} {newest : PcWord} (h : s.stack = older ++ [newest]) :
    exec .op00EE s = .next ((s.setStack older).setPc (newest + 2)) := exec00EE_of_stack h

/-- A call that completes had room on the stack (40_control_flow.md R101). -/
theorem exec_op2NNN_next {nnn : Addr} {s t : State} :
    exec (.op2NNN nnn) s = .next t ↔ s.sp < 16 ∧ t = (s.push s.pc).setPc (jumpTarget nnn) := by
  rcases Nat.lt_or_ge s.sp 16 with hroom | hfull
  · simp [exec_op2NNN_of_room hroom, hroom, eq_comm]
  · simp [exec_op2NNN_of_full hfull, hfull]

/-- Settles O8: the target is the whole sum, and a fetch from 0xFFF or above is out of bounds. -/
theorem jumpWithOffsetDoesNotWrap : Obligations.JumpWithOffsetDoesNotWrap := by
  refine ⟨decodesAs_BNNN, fun nnn s => ?_⟩
  have hpc : (s.setPc (s.offsetTarget nnn)).pc.toNat = nnn.toNat + (s.getV 0).toNat := s.toNat_offsetTarget nnn
  refine ⟨_, exec_opBNNN nnn s, hpc, (Frame.refl [.pc] s).setPc (by simp) _, fun hsum => ?_⟩
  rw [← hpc] at hsum ⊢
  exact ⟨_, _, step_of_fetch_fault hsum⟩

/-- Settles O11: the newest entry of the call's stack is the call's own address. -/
theorem returnComesBackAfterTheCall : Obligations.ReturnComesBackAfterTheCall := by
  intro nnn s t u hcall hstack
  obtain ⟨-, rfl⟩ := exec_op2NNN_next.1 hcall
  have hstack : u.stack = s.stack ++ [s.pc] := hstack
  exact ⟨_, exec_op00EE_of_stack hstack, rfl, rfl,
    ((Frame.refl [.pc, .stack] u).setStack (by simp) _).setPc (by simp) _⟩

end Sys2Proof.Machine
end

section
/-! ## Flags as numbers (10_state.md R22): what each flag computation gives -/

namespace Sys2Proof.Machine

theorem toNat_flagByte (c : Bool) : (flagByte c).toNat = if c then 1 else 0 := by
  cases c <;> rfl

theorem toNat_carryFlag (a b : Byte) : (carryFlag a b).toNat = if 255 < a.toNat + b.toNat then 1 else 0 := by
  simp [carryFlag, toNat_flagByte]

theorem toNat_noBorrowFlag (a b : Byte) : (noBorrowFlag a b).toNat = if b.toNat < a.toNat then 1 else 0 := by
  simp [noBorrowFlag, toNat_flagByte]

/-- A bit of a byte, as a flag, is that binary digit of its number. -/
theorem toNat_flagByte_getLsbD (a : Byte) (k : Nat) : (flagByte (a.getLsbD k)).toNat = a.toNat / 2 ^ k % 2 := by
  rw [toNat_flagByte, BitVec.getLsbD, Nat.testBit_eq_decide_div_mod_eq]
  split <;> simp_all

theorem toNat_shiftedOutRight (a : Byte) : (shiftedOutRight a).toNat = a.toNat % 2 := by
  have hbit := toNat_flagByte_getLsbD a 0
  rwa [Nat.pow_zero, Nat.div_one] at hbit

theorem toNat_shiftedOutLeft (a : Byte) : (shiftedOutLeft a).toNat = a.toNat / 128 := by
  have ha : a.toNat < 256 := a.isLt
  have hbit := toNat_flagByte_getLsbD a 7
  exact hbit.trans (by omega)

end Sys2Proof.Machine
end

section
/-! ## Frames: the flag before a register, and the count of draws -/

namespace Sys2Proof

open Sys2Proof.Machine

section
variable {changed : List Element} {s t : State}

theorem Frame.setFlagThenV {x : RegNum} (h : Frame changed s t) (hflag : Element.v vf ∈ changed)
    (hmem : Element.v x ∈ changed) (g b : Byte) : Frame changed s (t.setFlagThenV x g b) :=
  (h.setV hflag g).setV hmem b

theorem Frame.nextDraw (h : Frame changed s t) (hmem : Element.draws ∈ changed) : Frame changed s t.nextDraw := by
  intro e he
  cases e with
  | draws => exact absurd hmem he
  | _ => exact h _ he
end

end Sys2Proof
end

section
/-! ## Arithmetic, logic, shifts and the random byte (41_load_alu.md R121 to R131) -/

namespace Sys2Proof.Machine

theorem exec_op7XNN (x : RegNum) (nn : Byte) (s : State) :
    exec (.op7XNN x nn) s = .next (s.setV x (s.getV x + nn)).advance := rfl

theorem exec_op8XY1 (x y : RegNum) (s : State) :
    exec (.op8XY1 x y) s = .next (s.setV x (s.getV x ||| s.getV y)).advance := rfl

theorem exec_op8XY2 (x y : RegNum) (s : State) :
    exec (.op8XY2 x y) s = .next (s.setV x (s.getV x &&& s.getV y)).advance := rfl

theorem exec_op8XY3 (x y : RegNum) (s : State) :
    exec (.op8XY3 x y) s = .next (s.setV x (s.getV x ^^^ s.getV y)).advance := rfl

theorem exec_op8XY4 (x y : RegNum) (s : State) :
    exec (.op8XY4 x y) s =
      .next (s.setFlagThenV x (carryFlag (s.getV x) (s.getV y)) (s.getV x + s.getV y)).advance := rfl

theorem exec_op8XY5 (x y : RegNum) (s : State) :
    exec (.op8XY5 x y) s =
      .next (s.setFlagThenV x (noBorrowFlag (s.getV x) (s.getV y)) (s.getV x - s.getV y)).advance := rfl

theorem exec_op8XY6 (x y : RegNum) (s : State) :
    exec (.op8XY6 x y) s = .next (s.setFlagThenV x (shiftedOutRight (s.getV x)) (s.getV x >>> 1)).advance := rfl

theorem exec_op8XYE (x y : RegNum) (s : State) :
    exec (.op8XYE x y) s = .next (s.setFlagThenV x (shiftedOutLeft (s.getV x)) (s.getV x <<< 1)).advance := rfl

theorem exec_opCXNN (x : RegNum) (nn : Byte) (s : State) :
    exec (.opCXNN x nn) s = .next ((s.setV x (s.randomDraw &&& nn)).nextDraw).advance := rfl

/-- An instruction that writes VF as a flag and then V[X] completes with the result in V[X], with the flag in VF unless X is
15, and changes nothing else but PC (41_load_alu.md R131). -/
theorem writes_flag_and_register_and_advances {i : Instr} {s : State} {x : RegNum} {g b : Byte}
    (h : exec i s = .next (s.setFlagThenV x g b).advance) :
    ∃ t, exec i s = .next t ∧ t.getV x = b ∧ (x ≠ 15 → t.getV 15 = g) ∧ t.pc = s.pc + 2 ∧
      Frame [.pc, .v x, .v 15] s t := by
  refine ⟨_, h, ?result, fun hx => ?flag, rfl,
    ((Frame.refl [.pc, .v x, .v 15] s).setFlagThenV (by simp) (by simp) g b).advance (by simp)⟩
  case result => simp [State.getV_setFlagThenV]
  case flag => rw [State.advance_getV, State.getV_setFlagThenV, if_neg hx.symm, if_pos rfl]

/-- Settles O14: the byte sum is the sum modulo 256. -/
theorem addImmediateWrapsWithoutFlag : Obligations.AddImmediateWrapsWithoutFlag := by
  refine ⟨decodesAs_7XNN, fun x nn s => ?_⟩
  obtain ⟨t, hexec, hresult, hpc, hframe⟩ := writes_register_and_advances (exec_op7XNN x nn s)
  exact ⟨t, hexec, by rw [hresult, BitVec.toNat_add], hpc, hframe⟩

/-- Settles O15: each of the three writes one register with the bitwise operation on the old bytes. -/
theorem logicWorksBitByBitWithoutFlag : Obligations.LogicWorksBitByBitWithoutFlag := by
  refine ⟨decodesAs_8XY1, decodesAs_8XY2, decodesAs_8XY3, fun x y s => ⟨?op8XY1, ?op8XY2, ?op8XY3⟩⟩
  case op8XY1 =>
    obtain ⟨t, hexec, hresult, hpc, hframe⟩ := writes_register_and_advances (exec_op8XY1 x y s)
    exact ⟨t, hexec, fun b _ => by rw [hresult, BitVec.getLsbD_or], hpc, hframe⟩
  case op8XY2 =>
    obtain ⟨t, hexec, hresult, hpc, hframe⟩ := writes_register_and_advances (exec_op8XY2 x y s)
    exact ⟨t, hexec, fun b _ => by rw [hresult, BitVec.getLsbD_and], hpc, hframe⟩
  case op8XY3 =>
    obtain ⟨t, hexec, hresult, hpc, hframe⟩ := writes_register_and_advances (exec_op8XY3 x y s)
    exact ⟨t, hexec, fun b _ => by rw [hresult, BitVec.getLsbD_xor], hpc, hframe⟩

/-- Settles O16: the byte sum, and the carry as the flag. -/
theorem addSetsCarry : Obligations.AddSetsCarry := by
  refine ⟨decodesAs_8XY4, fun x y s => ?_⟩
  obtain ⟨t, hexec, hresult, hflag, hpc, hframe⟩ := writes_flag_and_register_and_advances (exec_op8XY4 x y s)
  exact ⟨t, hexec, by rw [hresult, BitVec.toNat_add], fun hx => by rw [hflag hx, toNat_carryFlag], hpc, hframe⟩

/-- Settles O17: the byte difference wraps below zero, and the flag compares the old bytes. -/
theorem subtractSetsStrictNoBorrow : Obligations.SubtractSetsStrictNoBorrow := by
  refine ⟨decodesAs_8XY5, fun x y s => ?_⟩
  obtain ⟨t, hexec, hresult, hflag, hpc, hframe⟩ := writes_flag_and_register_and_advances (exec_op8XY5 x y s)
  refine ⟨t, hexec, ?_, fun hx => by rw [hflag hx, toNat_noBorrowFlag], hpc, hframe⟩
  have hx : (s.getV x).toNat < 256 := (s.getV x).isLt
  have hy : (s.getV y).toNat < 256 := (s.getV y).isLt
  rw [hresult, BitVec.toNat_sub]
  split <;> omega

/-- Settles O18: shifting by one halves or doubles, and the flag is the digit shifted out; no value of V[Y] is read. -/
theorem shiftsMoveOneBitIntoVf : Obligations.ShiftsMoveOneBitIntoVf := by
  refine ⟨decodesAs_8XY6, decodesAs_8XYE, fun x y s => ⟨?op8XY6, ?op8XYE⟩⟩
  case op8XY6 =>
    obtain ⟨t, hexec, hresult, hflag, hpc, hframe⟩ := writes_flag_and_register_and_advances (exec_op8XY6 x y s)
    refine ⟨t, hexec, ?_, fun hx => by rw [hflag hx, toNat_shiftedOutRight], hpc, hframe⟩
    rw [hresult, BitVec.toNat_ushiftRight, Nat.shiftRight_one]
  case op8XYE =>
    obtain ⟨t, hexec, hresult, hflag, hpc, hframe⟩ := writes_flag_and_register_and_advances (exec_op8XYE x y s)
    refine ⟨t, hexec, ?_, fun hx => by rw [hflag hx, toNat_shiftedOutLeft], hpc, hframe⟩
    rw [hresult, BitVec.toNat_shiftLeft, Nat.shiftLeft_eq, Nat.pow_one]

/-- Settles O19: V[X] is the drawn byte under the mask, and the count of draws goes up. -/
theorem randomByteIsMasked : Obligations.RandomByteIsMasked := by
  refine ⟨decodesAs_CXNN, fun x nn s => ⟨_, exec_opCXNN x nn s, fun b _ => ?_, rfl, rfl, ?_⟩⟩
  · simp [State.randomDraw]
  · exact (((Frame.refl [.pc, .v x, .draws] s).setV (by simp) _).nextDraw (by simp)).advance (by simp)

end Sys2Proof.Machine
end

section
/-! ## Index arithmetic (42_index_memory.md R141, R142) -/

namespace Sys2Proof.Machine

theorem State.toNat_indexPlus (s : State) (x : RegNum) :
    (s.indexPlus x).toNat = (s.i.toNat + (s.getV x).toNat) % 4096 := by
  simp [State.indexPlus]

/-- The last glyph address, for V[X] = 255, is below 4096. -/
theorem State.toNat_glyphAddress (s : State) (x : RegNum) : (s.glyphAddress x).toNat = 0x050 + (s.getV x).toNat * 5 := by
  have hv : (s.getV x).toNat < 256 := (s.getV x).isLt
  exact Nat.mod_eq_of_lt (show 0x050 + (s.getV x).toNat * 5 < 4096 by omega)

theorem exec_opFX1E (x : RegNum) (s : State) : exec (.opFX1E x) s = .next (s.setI (s.indexPlus x)).advance := rfl

theorem exec_opFX29 (x : RegNum) (s : State) : exec (.opFX29 x) s = .next (s.setI (s.glyphAddress x)).advance := rfl

/-- An instruction that writes I and advances changes only PC and I. -/
theorem frame_setI_advance (s : State) (a : Addr) : Frame [.pc, .i] s (s.setI a).advance :=
  ((Frame.refl [.pc, .i] s).setI (by simp) a).advance (by simp)

/-- Settles O21: both write I with the address computed, as a number. -/
theorem indexArithmetic : Obligations.IndexArithmetic := by
  refine ⟨decodesAs_FX1E, decodesAs_FX29, fun x s => ⟨?opFX1E, ?opFX29⟩⟩
  case opFX1E => exact ⟨_, exec_opFX1E x s, s.toNat_indexPlus x, rfl, frame_setI_advance s _⟩
  case opFX29 => exact ⟨_, exec_opFX29 x s, s.toNat_glyphAddress x, rfl, frame_setI_advance s _⟩

end Sys2Proof.Machine
end

section
/-! ## Key skips (44_keypad_timers.md R170, R171, R176) -/

namespace Sys2Proof.Machine

theorem exec_opEX9E (x : RegNum) (s : State) :
    exec (.opEX9E x) s = keySkip (.opEX9E x) (s.keyIndex x) (s.keyDown (s.keyIndex x)) s := rfl

theorem exec_opEXA1 (x : RegNum) (s : State) :
    exec (.opEXA1 x) s = keySkip (.opEXA1 x) (s.keyIndex x) (!s.keyDown (s.keyIndex x)) s := rfl

section
variable {i : Instr} {k : Nat} {c : Bool} {s : State}

/-- A key skip with an index of at most 15 skips on its condition and changes only PC. -/
theorem skips_on_key (hexec : exec i s = keySkip i k c s) (hk : k ≤ 15) :
    ∃ t, exec i s = .next t ∧ t.pc = s.pc + (if c then 4 else 2) ∧ Frame [.pc] s t :=
  ⟨_, hexec.trans (keySkip_next.2 ⟨hk, rfl⟩), s.skipIf_pc c, (Frame.refl [.pc] s).skipIf (by simp) c⟩

/-- A key skip with an index above 15 stops. -/
theorem stopsWith_of_keyIndex (hexec : exec i s = keySkip i k c s) (hk : 15 < k) :
    ∃ op p, StopsWith i s (.outOfBounds .keyIndex k op p) :=
  ⟨_, _, stopsWith_of_exec (hexec.trans (keySkip_fault.2 ⟨hk, rfl⟩))⟩
end

/-- Settles O30: both are key skips on the key V[X], EX9E on the key down and EXA1 on the key up. -/
theorem keySkipsTestOneKey : Obligations.KeySkipsTestOneKey := by
  refine ⟨decodesAs_EX9E, decodesAs_EXA1, fun x s hk => ⟨skips_on_key (exec_opEX9E x s) hk, ?up⟩, fun x s hk => ?above⟩
  case up =>
    obtain ⟨t, hexec, hpc, hframe⟩ := skips_on_key (exec_opEXA1 x s) hk
    refine ⟨t, hexec, hpc.trans ?_, hframe⟩
    cases h : s.keyDown (s.keyIndex x) <;> simp_all [State.keyDown, State.keyIndex]
  case above => exact ⟨stopsWith_of_keyIndex (exec_opEX9E x s) hk, stopsWith_of_keyIndex (exec_opEXA1 x s) hk⟩

end Sys2Proof.Machine
end

section
/-! ## Canonical memory (20_memory.md sections 1 and 7): its data is determined by what it reads -/

namespace Sys2Proof.Machine

theorem Memory.read_cons_self (a : Nat) (u : Byte) (m : Memory) : Memory.read ((a, u) :: m) a = u := if_pos rfl

theorem Memory.read_cons_of_ne {a b : Nat} (h : b ≠ a) (u : Byte) (m : Memory) :
    Memory.read ((a, u) :: m) b = m.read b := if_neg h

/-- Below the first address listed nothing is listed. -/
theorem Memory.read_cons_of_lt {lo : Option Nat} {a b : Nat} {u : Byte} {m : Memory}
    (h : Memory.wfAbove lo ((a, u) :: m) = true) (hb : b < a) : Memory.read ((a, u) :: m) b = unlistedByte b := by
  obtain ⟨-, -, -, htail⟩ := Memory.wfAbove_cons.1 h
  rw [Memory.read_cons_of_ne hb.ne, Memory.read_of_le htail hb.le]

/-- An address listed reads as no unlisted address does, so it cannot lie below what another memory lists first. -/
theorem Memory.not_lt_of_read_eq {lo lo' : Option Nat} {a b : Nat} {u w : Byte} {m m' : Memory}
    (h : Memory.wfAbove lo ((a, u) :: m) = true) (h' : Memory.wfAbove lo' ((b, w) :: m') = true)
    (hread : ∀ c < Config.memSize, Memory.read ((a, u) :: m) c = Memory.read ((b, w) :: m') c) : ¬ a < b := by
  intro hab
  obtain ⟨-, ha, hu, -⟩ := Memory.wfAbove_cons.1 h
  apply hu
  rw [← Memory.read_cons_of_lt h' hab, ← hread a ha, Memory.read_cons_self]

/-- Canonical memories agree on their first entry, and then, below and above it, on the rest. -/
theorem Memory.eq_of_read_eq {m m' : Memory} {lo lo' : Option Nat} (h : Memory.wfAbove lo m = true)
    (h' : Memory.wfAbove lo' m' = true) (hread : ∀ c < Config.memSize, m.read c = m'.read c) : m = m' := by
  induction m generalizing lo lo' m' with
  | nil =>
    cases m' with
    | nil => rfl
    | cons e' m' =>
      obtain ⟨b, w⟩ := e'
      obtain ⟨-, hb, hw, -⟩ := Memory.wfAbove_cons.1 h'
      exact absurd ((Memory.read_cons_self b w m').symm.trans (hread b hb).symm) hw
  | cons e m ih =>
    obtain ⟨a, u⟩ := e
    obtain ⟨-, ha, hu, htail⟩ := Memory.wfAbove_cons.1 h
    cases m' with
    | nil => exact absurd ((Memory.read_cons_self a u m).symm.trans (hread a ha)) hu
    | cons e' m' =>
      obtain ⟨b, w⟩ := e'
      obtain ⟨-, -, -, htail'⟩ := Memory.wfAbove_cons.1 h'
      have hab : a = b := le_antisymm (not_lt.1 (Memory.not_lt_of_read_eq h' h fun c hc => (hread c hc).symm))
        (not_lt.1 (Memory.not_lt_of_read_eq h h' hread))
      subst hab
      have huw : u = w := by simpa only [Memory.read_cons_self] using hread a ha
      have hrest : ∀ c < Config.memSize, Memory.read m c = Memory.read m' c := by
        intro c hc
        rcases Nat.lt_or_ge a c with hac | hca
        · simpa only [Memory.read_cons_of_ne hac.ne'] using hread c hc
        · rw [Memory.read_of_le htail hca, Memory.read_of_le htail' hca]
      rw [huw, ih htail htail' hrest]

/-- Settles O45: the canonical form has no lower bound above it. -/
theorem canonicalMemoriesAreEqualWhenTheyReadAlike : Obligations.CanonicalMemoriesAreEqualWhenTheyReadAlike :=
  fun _ _ h h' hread => Memory.eq_of_read_eq h h' hread

end Sys2Proof.Machine
end

section
/-! ## Stored registers, loaded back and fetched (42_index_memory.md sections 3 and 4; 20_memory.md R62) -/

namespace Sys2Proof.Machine

/-- What a store of registers that completed tells: it fits, I is as before, and the bytes stand in their cells (O23). -/
theorem exec_opFX55_next {x : RegNum} {s t : State} (hwf : s.mem.wf = true) (h : exec (.opFX55 x) s = .next t) :
    s.base + x.toNat ≤ 0xFFF ∧ t.i = s.i ∧ ∀ k : RegNum, k.toNat ≤ x.toNat → t.mem.read (s.base + k.toNat) = s.getV k := by
  obtain ⟨hfit, -⟩ := guardAccess_next.1 ((exec_opFX55 x s).symm.trans h)
  have hfit : s.base + x.toNat ≤ 0xFFF := Nat.le_of_succ_le_succ hfit
  obtain ⟨-, hstore, -⟩ := storeRegistersUpToX
  obtain ⟨t', hexec, hread, -, hframe⟩ := hstore x s hwf hfit
  cases hexec.symm.trans h
  exact ⟨hfit, hframe .i (by simp [Cells]), hread⟩

/-- Settles O25: the load goes over the very cells the store went over. -/
theorem storedRegistersLoadBack : Obligations.StoredRegistersLoadBack := by
  intro x s t u hwf hstore hmem hi
  obtain ⟨hfit, hti, hread⟩ := exec_opFX55_next hwf hstore
  have hbase : u.base = s.base := congrArg BitVec.toNat (hi.trans hti)
  obtain ⟨-, hload, -⟩ := loadRegistersUpToX
  obtain ⟨r, hexec, hregs, -⟩ := hload x u (hbase ▸ hfit)
  refine ⟨r, hexec, fun k hk => ?_⟩
  rw [hregs k hk, hmem, hbase, hread k hk]

/-- Settles O26: the two bytes at PC are two neighbouring registers, the first of them the high byte. -/
theorem storedBytesAreFetched : Obligations.StoredBytesAreFetched := by
  intro x k s t u hwf hstore hk hmem hpc
  obtain ⟨hfit, -, hread⟩ := exec_opFX55_next hwf hstore
  have hx : x.toNat < 16 := x.isLt
  have hnext : (k + 1).toNat = k.toNat + 1 := by
    rw [BitVec.toNat_add]
    exact Nat.mod_eq_of_lt (show k.toNat + 1 < 16 by omega)
  refine ⟨?_, fun i hi => step_of_decodeWord_some (by omega) hi⟩
  rw [State.toNat_wordAtPc, hpc, hmem, hread k hk.le, Nat.add_assoc, ← hnext, hread (k + 1) (by omega)]

end Sys2Proof.Machine
end

section
/-! ## Fetching from an unchanged memory and PC, and runs of steps that stay where they are -/

namespace Sys2Proof.Machine

section
variable {s t : State}

theorem State.wordAtPc_congr (hmem : t.mem = s.mem) (hpc : t.pc = s.pc) : t.wordAtPc = s.wordAtPc := by
  simp only [State.wordAtPc, hmem, hpc]

/-- The fetch reads nothing but memory and PC (20_memory.md R52). -/
theorem State.fetchInstr_congr (hmem : t.mem = s.mem) (hpc : t.pc = s.pc) : t.fetchInstr = s.fetchInstr := by
  unfold State.fetchInstr State.canFetch
  rw [State.wordAtPc_congr hmem hpc, hpc]
end

theorem core_run_zero (s : State) : core.run 0 s = .next s := rfl

theorem core_run_succ_of_next {s t : State} (h : step s = .next t) (n : Nat) : core.run (n + 1) s = core.run n t := by
  have hcore : core.step s = .next t := h
  simp only [Host.Core.run, hcore]

/-- A state whose step changes nothing is where every run from it ends. -/
theorem core_run_of_step_self {s : State} (h : step s = .next s) (n : Nat) : core.run n s = .next s := by
  induction n with
  | zero => exact core_run_zero s
  | succ n ih => rw [core_run_succ_of_next h, ih]

end Sys2Proof.Machine
end

section
/-! ## The end of a run (70_reset_and_hazards.md R264) -/

namespace Sys2Proof.Machine

/-- A run is ended by what memory, PC and WAIT hold, and by nothing else. -/
theorem ended_congr {s t : State} (hmem : t.mem = s.mem) (hpc : t.pc = s.pc) (hwait : t.wait = s.wait) (h : Ended s) :
    Ended t := by
  obtain ⟨hw, nnn, hfetch, htarget⟩ := h
  exact ⟨hwait.trans hw, nnn, (State.fetchInstr_congr hmem hpc).trans hfetch, hpc ▸ htarget⟩

/-- The jump to itself leaves PC where it is. -/
theorem step_of_ended {s : State} (h : Ended s) : step s = .next s := by
  obtain ⟨-, nnn, hfetch, htarget⟩ := h
  have hself : jumpTarget nnn = s.pc := BitVec.eq_of_toNat_eq ((toNat_jumpTarget nnn).trans htarget)
  rw [step_of_fetchInstr hfetch, exec_op1NNN, hself]
  rfl

/-- Settles O53: the step changes nothing, and ticks, key writes and redraw clears leave memory, PC and WAIT alone. -/
theorem endedRunsStayEnded : Obligations.EndedRunsStayEnded :=
  fun _ h => ⟨core_run_of_step_self (step_of_ended h), ended_congr rfl rfl rfl h,
    fun _ => ended_congr rfl rfl rfl h, ended_congr rfl rfl rfl h⟩

end Sys2Proof.Machine
end

section
/-! ## Frames: the keys, the wait and the latch -/

namespace Sys2Proof

open Sys2Proof.Machine

section
variable {changed : List Element} {s t : State}

theorem Frame.setKey (h : Frame changed s t) (hmem : Element.key ∈ changed) (k : BitVec 16) :
    Frame changed s (t.setKey k) := by
  intro e he
  cases e with
  | key => exact absurd hmem he
  | _ => exact h _ he

theorem Frame.setWait (h : Frame changed s t) (hmem : Element.wait ∈ changed) (b : Bool) :
    Frame changed s (t.setWait b) := by
  intro e he
  cases e with
  | wait => exact absurd hmem he
  | _ => exact h _ he

theorem Frame.setKlatch (h : Frame changed s t) (hmem : Element.klatch ∈ changed) (k : BitVec 16) :
    Frame changed s (t.setKlatch k) := by
  intro e he
  cases e with
  | klatch => exact absurd hmem he
  | _ => exact h _ he
end

theorem frame_beginWait (s : State) : Frame [.wait, .klatch] s s.beginWait :=
  ((Frame.refl [.wait, .klatch] s).setKlatch (by simp) s.key).setWait (by simp) true

end Sys2Proof
end

section
/-! ## The key wait (44_keypad_timers.md R172): what FX0A answers in each of its three situations -/

namespace Sys2Proof.Machine

/-- The first changed key is the lowest one (44_keypad_timers.md R172). -/
theorem lowest_of_changedKeys_cons {now before : BitVec 16} {k : Nat} {ks : List Nat}
    (h : changedKeys now before = k :: ks) :
    k < 16 ∧ now.getLsbD k ≠ before.getLsbD k ∧ ∀ j < k, now.getLsbD j = before.getLsbD j := by
  obtain ⟨hk, hdiff⟩ := mem_changedKeys.1 (h ▸ List.mem_cons_self : k ∈ changedKeys now before)
  refine ⟨hk, hdiff, fun j hj => ?_⟩
  by_contra hne
  have hmem : j ∈ k :: ks := h ▸ mem_changedKeys.2 ⟨hj.trans hk, hne⟩
  have hsorted : (k :: ks).Pairwise (· < ·) := h ▸ changedKeys_sorted now before
  rcases List.mem_cons.1 hmem with rfl | hks
  · exact lt_irrefl _ hj
  · exact lt_asymm hj (List.rel_of_pairwise_cons hsorted hks)

section
variable {s : State}

theorem exec_opFX0A_of_not_waiting (hw : s.wait = false) (x : RegNum) : exec (.opFX0A x) s = .next s.beginWait := by
  rcases execFX0A_cases x s with ⟨-, h⟩ | ⟨hw', -⟩ | ⟨_, _, hw', -⟩
  · exact h
  · exact absurd (hw.symm.trans hw') Bool.false_ne_true
  · exact absurd (hw.symm.trans hw') Bool.false_ne_true

theorem exec_opFX0A_of_same_keys (hw : s.wait = true) (hk : s.key = s.klatch) (x : RegNum) :
    exec (.opFX0A x) s = .next s := by
  rcases execFX0A_cases x s with ⟨hw', -⟩ | ⟨-, -, h⟩ | ⟨_, _, -, hcons, -⟩
  · exact absurd (hw'.symm.trans hw) Bool.false_ne_true
  · exact h
  · exact absurd (hcons.symm.trans (changedKeys_eq_nil.2 hk)) (List.cons_ne_nil _ _)

theorem exec_opFX0A_of_changed_key (hw : s.wait = true) (hk : s.key ≠ s.klatch) (x : RegNum) :
    ∃ k < 16, s.key.getLsbD k ≠ s.klatch.getLsbD k ∧ (∀ j < k, s.key.getLsbD j = s.klatch.getLsbD j) ∧
      exec (.opFX0A x) s = .next ((s.setV x (BitVec.ofNat 8 k)).setWait false).advance := by
  rcases execFX0A_cases x s with ⟨hw', -⟩ | ⟨-, hnil, -⟩ | ⟨k, ks, -, hcons, h⟩
  · exact absurd (hw'.symm.trans hw) Bool.false_ne_true
  · exact absurd (changedKeys_eq_nil.1 hnil) hk
  · obtain ⟨hlt, hdiff, hlow⟩ := lowest_of_changedKeys_cons hcons
    exact ⟨k, hlt, hdiff, hlow, h⟩
end

/-- Settles O32: no wait, a wait without a change and a wait with one exclude each other. -/
theorem keyWaitProtocol : Obligations.KeyWaitProtocol := by
  refine ⟨decodesAs_FX0A, fun x s => ?_⟩
  cases hw : s.wait with
  | false => exact ⟨_, exec_opFX0A_of_not_waiting hw x, fun _ => ⟨rfl, rfl, frame_beginWait s⟩, nofun, nofun⟩
  | true =>
    by_cases hk : s.key = s.klatch
    · exact ⟨_, exec_opFX0A_of_same_keys hw hk x, nofun, fun _ _ => Frame.refl [] s, fun _ hne => absurd hk hne⟩
    · obtain ⟨k, hlt, hdiff, hlow, hexec⟩ := exec_opFX0A_of_changed_key hw hk x
      refine ⟨_, hexec, nofun, fun _ heq => absurd heq hk, fun _ _ => ⟨k, hlt, hdiff, hlow, ?result, rfl, rfl, ?frame⟩⟩
      case result =>
        rw [State.advance_getV, State.setWait_getV, State.getV_setV_self]
        exact Nat.mod_eq_of_lt (by omega)
      case frame =>
        exact (((Frame.refl [.pc, .v x, .wait] s).setV (by simp) _).setWait (by simp) false).advance (by simp)

/-- Settles O33: the first step begins the wait, the later ones change nothing, and a changed key vector ends it. -/
theorem keyWaitLastsUntilAKeyChanges : Obligations.KeyWaitLastsUntilAKeyChanges := by
  intro x s n hw hpc hdec
  have hfetch : s.fetchInstr = .ok (.opFX0A x) := State.fetchInstr_ok.2 ⟨hpc, hdec⟩
  have hfirst : step s = .next s.beginWait := by
    rw [step_of_fetchInstr hfetch, exec_opFX0A_of_not_waiting hw]
  have hlater : step s.beginWait = .next s.beginWait := by
    have hfetch' : s.beginWait.fetchInstr = .ok (.opFX0A x) := (State.fetchInstr_congr rfl rfl).trans hfetch
    rw [step_of_fetchInstr hfetch', exec_opFX0A_of_same_keys rfl rfl]
  refine ⟨s.beginWait, ?_, rfl, frame_beginWait s, fun k hk => ?_⟩
  · rw [core_run_succ_of_next hfirst, core_run_of_step_self hlater]
  · have hfetch' : (keyWrite k s.beginWait).fetchInstr = .ok (.opFX0A x) := (State.fetchInstr_congr rfl rfl).trans hfetch
    obtain ⟨j, -, -, -, hexec⟩ := exec_opFX0A_of_changed_key (s := keyWrite k s.beginWait) rfl hk x
    exact ⟨_, (step_of_fetchInstr hfetch').trans hexec, rfl, rfl⟩

end Sys2Proof.Machine
end

section
/-! ## Drawing (43_display.md R161 to R165): which pixels, VF and the frame after a sprite is drawn -/

namespace Sys2Proof.Machine

/-- The state after a DXYN that completes (43_display.md R161). -/
def State.afterDraw (s : State) (x y : RegNum) (n : BitVec 4) : State :=
  (((s.setV vf (collisionFlag (s.drawn x y n).hit)).setFb (s.drawn x y n).fb).setRedraw true).advance

theorem exec_opDXYN (x y : RegNum) (n : BitVec 4) (s : State) :
    exec (.opDXYN x y n) s = guardAccess .memRead n.toNat (.opDXYN x y n) s (s.afterDraw x y n) := rfl

section
variable (s : State) (x y : RegNum) (n : BitVec 4)

@[simp] theorem State.afterDraw_mem : (s.afterDraw x y n).mem = s.mem := rfl
@[simp] theorem State.afterDraw_i : (s.afterDraw x y n).i = s.i := rfl
@[simp] theorem State.afterDraw_stack : (s.afterDraw x y n).stack = s.stack := rfl
@[simp] theorem State.afterDraw_dt : (s.afterDraw x y n).dt = s.dt := rfl
@[simp] theorem State.afterDraw_st : (s.afterDraw x y n).st = s.st := rfl
@[simp] theorem State.afterDraw_key : (s.afterDraw x y n).key = s.key := rfl
@[simp] theorem State.afterDraw_wait : (s.afterDraw x y n).wait = s.wait := rfl
@[simp] theorem State.afterDraw_klatch : (s.afterDraw x y n).klatch = s.klatch := rfl
@[simp] theorem State.afterDraw_draws : (s.afterDraw x y n).draws = s.draws := rfl

/-- The pixel of the frame buffer after a draw: flipped where the sprite covers it (43_display.md R164). -/
theorem State.afterDraw_pixel_of_covered {p : Nat} (hp : p < 2048) (h : SpriteCovers s x y n p) :
    (s.afterDraw x y n).pixel p = !s.pixel p := by
  have hflip := pixelOf_drawn s x y n p hp
  rw [decide_eq_true ((spriteCovers_iff s x y n p).1 h), Bool.xor_true] at hflip
  exact hflip

theorem State.afterDraw_pixel_of_not_covered {p : Nat} (hp : p < 2048) (h : ¬ SpriteCovers s x y n p) :
    (s.afterDraw x y n).pixel p = s.pixel p := by
  have hflip := pixelOf_drawn s x y n p hp
  rw [decide_eq_false (fun hmem => h ((spriteCovers_iff s x y n p).2 hmem)), Bool.xor_false] at hflip
  exact hflip

theorem State.afterDraw_getV_vf : (s.afterDraw x y n).getV 15 = flagByte (s.drawn x y n).hit :=
  s.getV_setV_self vf _

/-- VF is 1 exactly on a collision (43_display.md R161). -/
theorem State.afterDraw_getV_vf_eq_one_iff :
    (s.afterDraw x y n).getV 15 = 1 ↔ ∃ p, SpriteCovers s x y n p ∧ s.pixel p = true := by
  rw [State.afterDraw_getV_vf, ← drawn_hit_iff]
  cases (s.drawn x y n).hit <;> decide

theorem State.afterDraw_getV_vf_of_no_collision (h : ¬ ∃ p, SpriteCovers s x y n p ∧ s.pixel p = true) :
    (s.afterDraw x y n).getV 15 = 0 := by
  rw [State.afterDraw_getV_vf, eq_false_of_ne_true (mt (drawn_hit_iff s x y n).1 h)]
  rfl

/-- A draw changes only PC, VF, REDRAW and pixels (43_display.md R165). -/
theorem frameExcept_afterDraw :
    FrameExcept (fun e => e = .pc ∨ e = .v 15 ∨ e = .redraw ∨ ∃ p, e = .pixel p) s (s.afterDraw x y n) := by
  intro e he
  cases e with
  | pc => simp at he
  | redraw => simp at he
  | pixel p => simp at he
  | v k => exact s.getV_setV_ne _ (fun hk : k = vf => he (.inr (.inl (congrArg Element.v hk))))
  | _ => rfl
end

/-- Settles O28: a draw inside memory completes with the state after the draw, and one past its end stops. -/
theorem drawFlipsCoveredPixels : Obligations.DrawFlipsCoveredPixels := by
  refine ⟨decodesAs_DXYN, fun x y n s hfit => ?_, fun x y n s hn hpast => ?_⟩
  · have hi : s.base < 4096 := s.i.isLt
    have hfit : s.base + n.toNat ≤ Config.memSize := by
      rcases hfit with rfl | hfit
      · exact hi.le
      · show s.base + n.toNat ≤ 4096
        omega
    refine ⟨_, (exec_opDXYN x y n s).trans (guardAccess_next.2 ⟨hfit, rfl⟩), fun p hp => ⟨?_, ?_⟩,
      (s.afterDraw_getV_vf_eq_one_iff x y n).2, s.afterDraw_getV_vf_of_no_collision x y n, rfl, rfl,
      frameExcept_afterDraw s x y n⟩
    · exact s.afterDraw_pixel_of_covered x y n hp
    · exact s.afterDraw_pixel_of_not_covered x y n hp
  · exact stopsWith_of_access_past_end (exec_opDXYN x y n s) (show 4096 < s.base + n.toNat by omega)

/-! ### Drawing twice -/

theorem lt_of_spriteCovers {s : State} {x y : RegNum} {n : BitVec 4} {p : Nat} (h : SpriteCovers s x y n p) : p < 2048 := by
  obtain ⟨row, col, -, -, -, rfl⟩ := h
  omega

/-- What a sprite covers is read from memory, I and the two registers of its place. -/
theorem spriteCovers_congr {s t : State} {x y : RegNum} {n : BitVec 4} (hmem : t.mem = s.mem) (hi : t.i = s.i)
    (hx : t.getV x = s.getV x) (hy : t.getV y = s.getV y) (p : Nat) : SpriteCovers t x y n p ↔ SpriteCovers s x y n p := by
  simp only [SpriteCovers, hmem, hi, hx, hy]

/-- Settles O29: the second draw covers the same pixels, so each one is flipped back, and it meets on-pixels where the first
one turned them on. -/
theorem drawingTwiceRestoresTheScreen : Obligations.DrawingTwiceRestoresTheScreen := by
  intro x y n s t hdraw hx hy
  obtain ⟨hfit, rfl⟩ := guardAccess_next.1 ((exec_opDXYN x y n s).symm.trans hdraw)
  have hcovers := spriteCovers_congr (n := n) (s := s) (t := s.afterDraw x y n) rfl rfl hx hy
  refine ⟨_, (exec_opDXYN x y n _).trans (guardAccess_next.2 ⟨hfit, rfl⟩), fb_eq_of_pixels fun p hp => ?_, ?_⟩
  · show ((s.afterDraw x y n).afterDraw x y n).pixel p = s.pixel p
    by_cases h : SpriteCovers s x y n p
    · rw [State.afterDraw_pixel_of_covered _ x y n hp ((hcovers p).2 h), s.afterDraw_pixel_of_covered x y n hp h,
        Bool.not_not]
    · rw [State.afterDraw_pixel_of_not_covered _ x y n hp (mt (hcovers p).1 h),
        s.afterDraw_pixel_of_not_covered x y n hp h]
  · rw [State.afterDraw_getV_vf_eq_one_iff]
    refine exists_congr fun p => ?_
    rw [hcovers p]
    refine and_congr_right fun h => ?_
    rw [s.afterDraw_pixel_of_covered x y n (lt_of_spriteCovers h) h, Bool.not_eq_true']

end Sys2Proof.Machine
end

section
/-! ## Ticks and key writes (60_exceptions.md R221, R222) -/

namespace Sys2Proof.Machine

theorem frame_keyWrite (k : BitVec 16) (s : State) : Frame [.key] s (keyWrite k s) :=
  (Frame.refl [.key] s).setKey (by simp) k

theorem runOps_replicate_tick_succ (font : FontTable) (n : Nat) (s : State) :
    runOps font (List.replicate (n + 1) .tick) s = tick (runOps font (List.replicate n .tick) s) := by
  rw [List.replicate_succ', runOps_append]
  rfl

/-- Settles O47: one tick more takes one more from each timer, if it is not yet zero. -/
theorem ticksCountDownToZero : Obligations.TicksCountDownToZero := by
  intro font n s
  induction n with
  | zero => exact ⟨rfl, rfl, Frame.refl [.dt, .st] s⟩
  | succ n ih =>
    obtain ⟨hdt, hst, hframe⟩ := ih
    rw [runOps_replicate_tick_succ]
    refine ⟨?_, ?_, (hframe.setDt (by simp) _).setSt (by simp) _⟩
    · exact (toNat_countDown _).trans (by rw [hdt, Nat.sub_sub])
    · exact (toNat_countDown _).trans (by rw [hst, Nat.sub_sub])

/-- The vector with only key j down. -/
theorem getLsbD_one_shiftLeft {j k : Nat} (hk : k < 16) : (1#16 <<< j).getLsbD k = decide (k = j) := by
  rw [BitVec.getLsbD_shiftLeft, BitVec.getLsbD_one, Bool.eq_iff_iff]
  simp
  omega

theorem keyDown_keyDownEvent (j : Fin 16) (s : State) {k : Nat} (hk : k < 16) :
    (keyDownEvent j s).keyDown k = (decide (k = j.val) || s.keyDown k) := by
  show (s.key ||| 1#16 <<< j.val).getLsbD k = _
  rw [BitVec.getLsbD_or, getLsbD_one_shiftLeft hk, Bool.or_comm]
  rfl

theorem keyDown_keyUpEvent (j : Fin 16) (s : State) {k : Nat} (hk : k < 16) :
    (keyUpEvent j s).keyDown k = (!decide (k = j.val) && s.keyDown k) := by
  show (s.key &&& ~~~(1#16 <<< j.val)).getLsbD k = _
  rw [BitVec.getLsbD_and, BitVec.getLsbD_not, getLsbD_one_shiftLeft hk, decide_eq_true hk, Bool.true_and, Bool.and_comm]
  rfl

/-- Settles O48: a key event is a key write that differs from KEY in one bit. -/
theorem keyWriteSetsTheKeys : Obligations.KeyWriteSetsTheKeys :=
  ⟨fun _ k s => ⟨keyWrite k s, rfl, fun _ _ => rfl, frame_keyWrite k s⟩,
    fun j s => ⟨frame_keyWrite _ s, frame_keyWrite _ s,
      fun _ hk => ⟨keyDown_keyDownEvent j s hk, keyDown_keyUpEvent j s hk⟩⟩⟩

end Sys2Proof.Machine
end

section
/-! ## Outputs of a step (60_exceptions.md R218, R226, R227) -/

namespace Sys2Proof.Machine

theorem stepOutputs_of_next {s t : State} (h : step s = .next t) :
    stepOutputs s = some ⟨completedReport, t.tone, t.awaitKey⟩ := by
  simp only [stepOutputs, h]

theorem stepOutputs_of_fault {s : State} {f : Fault} (h : step s = .fault f) :
    stepOutputs s = some ⟨f.report, false, s.awaitKey⟩ := by
  simp only [stepOutputs, h]

/-- Settles O52: the outputs of a step that completes are those of the state after it. -/
theorem stepOutputsFollowTheStateAfter : Obligations.StepOutputsFollowTheStateAfter := by
  refine ⟨fun s t h => ⟨_, stepOutputs_of_next h, rfl, ?tone, rfl⟩,
    fun s f h => ⟨_, stepOutputs_of_fault h, rfl, rfl, rfl⟩⟩
  case tone => exact t.tone_eq_true_iff.trans Nat.pos_iff_ne_zero.symm

end Sys2Proof.Machine
end

section
/-! ## Reset (10_state.md R40; 70_reset_and_hazards.md R240) -/

namespace Sys2Proof.Machine

/-- The initial state and the state after a reset are the same but for the model's count of draws. -/
theorem eq_setDraws_resetWith {font : FontTable} {t : State} (h : t = State.resetWith font ∨ ∃ s, t = hostReset font s) :
    ∃ n, t = (State.resetWith font).setDraws n := by
  rcases h with rfl | ⟨s, rfl⟩
  · exact ⟨0, rfl⟩
  · exact ⟨s.draws, rfl⟩

theorem State.getV_resetWith (font : FontTable) (x : RegNum) : (State.resetWith font).getV x = 0 :=
  Vector.getElem_replicate (regNum_lt x)

/-- Settles O46: memory holds FONT in its range and zero outside it, and every other element is a constant of the reset state. -/
theorem resetGivesEveryElementItsValue : Obligations.ResetGivesEveryElementItsValue := by
  refine ⟨fun _ _ => rfl, State.resetWith_defaultFont, fun font t h => ?_⟩
  obtain ⟨n, rfl⟩ := eq_setDraws_resetWith h
  refine ⟨fun j hj => ?font, fun a _ ha => ?outside, State.getV_resetWith font, rfl, rfl, rfl, rfl, rfl, rfl,
    fun k _ => BitVec.getLsbD_zero, fun p _ => pixelOf_blankFb p, rfl, rfl, rfl⟩
  case font =>
    have hin : 0x050 ≤ 0x050 + j ∧ 0x050 + j < 0x050 + 80 := by omega
    rw [State.setDraws_mem, State.read_resetWith, dif_pos hin]
    simp only [Nat.add_sub_cancel_left]
  case outside =>
    have hout : ¬ (0x050 ≤ a ∧ a < 0x050 + 80) := by omega
    rw [State.setDraws_mem, State.read_resetWith, dif_neg hout]

end Sys2Proof.Machine
end

section
/-! ## Loading a program (70_reset_and_hazards.md R241, R245) -/

namespace Sys2Proof.Machine

/-- The state after a load that completes: reset, then the image at 0x200. -/
def loadedState (font : FontTable) (bytes : List Byte) (s : State) : State :=
  (hostReset font s).setMem ((hostReset font s).mem.writeBytes Config.progBase bytes)

section
variable {font : FontTable} {bytes : List Byte}

theorem perform_loadProgram_of_fits (h : bytes.length ≤ Config.progMax) (s : State) :
    perform font (.loadProgram bytes) s = .next (loadedState font bytes s) :=
  ((loadProgram_cases font bytes s).resolve_left fun hlong => absurd hlong.1 (not_lt.2 h)).2

theorem perform_loadProgram_of_too_large (h : Config.progMax < bytes.length) (s : State) :
    perform font (.loadProgram bytes) s = .fault (.programTooLarge bytes.length) :=
  ((loadProgram_cases font bytes s).resolve_right fun hfits => absurd h (not_lt.2 hfits.1)).2

theorem perform_loadProgram_next {s t : State} :
    perform font (.loadProgram bytes) s = .next t ↔ bytes.length ≤ Config.progMax ∧ t = loadedState font bytes s := by
  rcases Nat.lt_or_ge Config.progMax bytes.length with hlong | hfits
  · simp [perform_loadProgram_of_too_large hlong, hlong]
  · simp [perform_loadProgram_of_fits hfits, hfits, eq_comm]

/-- The longest image ends at the end of memory. -/
theorem image_fits_memory (h : bytes.length ≤ Config.progMax) : Config.progBase + bytes.length ≤ Config.memSize :=
  Nat.add_le_add_left h Config.progBase

theorem read_loadedState (h : bytes.length ≤ Config.progMax) (s : State) {j : Nat} (hj : j < bytes.length) :
    (loadedState font bytes s).mem.read (0x200 + j) = bytes.getD j 0 := by
  have hin : Config.progBase ≤ 0x200 + j ∧ 0x200 + j < Config.progBase + bytes.length :=
    ⟨Nat.le_add_right _ _, Nat.add_lt_add_left hj _⟩
  have hread := Memory.read_writeBytes (State.wf_resetWith font) (image_fits_memory h) (0x200 + j)
  rw [if_pos hin, Nat.add_sub_cancel_left] at hread
  exact hread
end

/-- Settles O50: a load that fits is a reset and a block write at 0x200, and one that does not fit is a fault. -/
theorem loadProgramResetsAndCopies : Obligations.LoadProgramResetsAndCopies := by
  refine ⟨fun font bytes s hfits => ?_, fun font bytes s hlong => ?_⟩
  · exact ⟨_, perform_loadProgram_of_fits hfits s, fun j hj => read_loadedState hfits s hj,
      frameExcept_writeBytes (s := hostReset font s) (State.wf_resetWith font) (image_fits_memory hfits)⟩
  · have hfault := perform_loadProgram_of_too_large (font := font) hlong s
    exact ⟨hfault, rfl, rfl, stateAfter_of_fault hfault⟩

/-- Settles O51: the first two bytes of the image are at PC, and they join to the instruction's word. -/
theorem loadThenStepRunsTheFirstInstruction : Obligations.LoadThenStepRunsTheFirstInstruction := by
  intro font i rest s t hload
  obtain ⟨hfits, rfl⟩ := perform_loadProgram_next.1 hload
  have hhigh := read_loadedState hfits s (font := font) (j := 0) (by simp [encodeBytes])
  have hlow := read_loadedState hfits s (font := font) (j := 1) (by simp [encodeBytes])
  have hword : (loadedState font (encodeBytes i ++ rest) s).wordAtPc = encode i :=
    (congrArg₂ wordOfBytes hhigh hlow).trans (wordOfBytes_split (encode i))
  refine ⟨rfl, rfl, rfl, step_of_decodeWord_some (show 0x200 ≤ 0xFFE by decide) ?_⟩
  rw [hword, decodeWord_encode]

end Sys2Proof.Machine
end

section
/-! ## What an instruction can answer: one case per way to complete and per way to fault (60_exceptions.md R218) -/

namespace Sys2Proof.Machine

/-- The ways an instruction faults in s, with the condition of each (60_exceptions.md R201 to R203). -/
inductive Faults (s : State) : Instr → Fault → Prop where
  | op00EE (h : s.stack = []) : Faults s .op00EE (.stackUnderflow (encode .op00EE) s.pc)
  | op2NNN (nnn : Addr) (h : 16 ≤ s.sp) : Faults s (.op2NNN nnn) (.stackOverflow (encode (.op2NNN nnn)) s.pc)
  | opDXYN (x y : RegNum) (n : BitVec 4) (h : Config.memSize < s.base + n.toNat) :
    Faults s (.opDXYN x y n) (.outOfBounds .memRead pastTheEnd (encode (.opDXYN x y n)) s.pc)
  | opEX9E (x : RegNum) (h : 15 < s.keyIndex x) :
    Faults s (.opEX9E x) (.outOfBounds .keyIndex (s.keyIndex x) (encode (.opEX9E x)) s.pc)
  | opEXA1 (x : RegNum) (h : 15 < s.keyIndex x) :
    Faults s (.opEXA1 x) (.outOfBounds .keyIndex (s.keyIndex x) (encode (.opEXA1 x)) s.pc)
  | opFX33 (x : RegNum) (h : Config.memSize < s.base + 3) :
    Faults s (.opFX33 x) (.outOfBounds .memWrite pastTheEnd (encode (.opFX33 x)) s.pc)
  | opFX55 (x : RegNum) (h : Config.memSize < s.base + blockSize x) :
    Faults s (.opFX55 x) (.outOfBounds .memWrite pastTheEnd (encode (.opFX55 x)) s.pc)
  | opFX65 (x : RegNum) (h : Config.memSize < s.base + blockSize x) :
    Faults s (.opFX65 x) (.outOfBounds .memRead pastTheEnd (encode (.opFX65 x)) s.pc)

/-- The ways an instruction completes in s, with the condition of each and the state it leaves. -/
inductive Completes (s : State) : Instr → State → Prop where
  | op00E0 : Completes s .op00E0 ((s.setFb blankFb).setRedraw true).advance
  | op00EE (older : List PcWord) (newest : PcWord) (h : s.stack = older ++ [newest]) :
    Completes s .op00EE ((s.setStack older).setPc (newest + 2))
  | op1NNN (nnn : Addr) : Completes s (.op1NNN nnn) (s.setPc (jumpTarget nnn))
  | op2NNN (nnn : Addr) (h : s.sp < 16) : Completes s (.op2NNN nnn) ((s.push s.pc).setPc (jumpTarget nnn))
  | op3XNN (x : RegNum) (nn : Byte) : Completes s (.op3XNN x nn) (s.skipIf (s.getV x == nn))
  | op4XNN (x : RegNum) (nn : Byte) : Completes s (.op4XNN x nn) (s.skipIf (s.getV x != nn))
  | op5XY0 (x y : RegNum) : Completes s (.op5XY0 x y) (s.skipIf (s.getV x == s.getV y))
  | op6XNN (x : RegNum) (nn : Byte) : Completes s (.op6XNN x nn) (s.setV x nn).advance
  | op7XNN (x : RegNum) (nn : Byte) : Completes s (.op7XNN x nn) (s.setV x (s.getV x + nn)).advance
  | op8XY0 (x y : RegNum) : Completes s (.op8XY0 x y) (s.setV x (s.getV y)).advance
  | op8XY1 (x y : RegNum) : Completes s (.op8XY1 x y) (s.setV x (s.getV x ||| s.getV y)).advance
  | op8XY2 (x y : RegNum) : Completes s (.op8XY2 x y) (s.setV x (s.getV x &&& s.getV y)).advance
  | op8XY3 (x y : RegNum) : Completes s (.op8XY3 x y) (s.setV x (s.getV x ^^^ s.getV y)).advance
  | op8XY4 (x y : RegNum) : Completes s (.op8XY4 x y)
    (s.setFlagThenV x (carryFlag (s.getV x) (s.getV y)) (s.getV x + s.getV y)).advance
  | op8XY5 (x y : RegNum) : Completes s (.op8XY5 x y)
    (s.setFlagThenV x (noBorrowFlag (s.getV x) (s.getV y)) (s.getV x - s.getV y)).advance
  | op8XY6 (x y : RegNum) : Completes s (.op8XY6 x y)
    (s.setFlagThenV x (shiftedOutRight (s.getV x)) (s.getV x >>> 1)).advance
  | op8XYE (x y : RegNum) : Completes s (.op8XYE x y)
    (s.setFlagThenV x (shiftedOutLeft (s.getV x)) (s.getV x <<< 1)).advance
  | op9XY0 (x y : RegNum) : Completes s (.op9XY0 x y) (s.skipIf (s.getV x != s.getV y))
  | opANNN (nnn : Addr) : Completes s (.opANNN nnn) (s.setI nnn).advance
  | opBNNN (nnn : Addr) : Completes s (.opBNNN nnn) (s.setPc (s.offsetTarget nnn))
  | opCXNN (x : RegNum) (nn : Byte) : Completes s (.opCXNN x nn) ((s.setV x (s.randomDraw &&& nn)).nextDraw).advance
  | opDXYN (x y : RegNum) (n : BitVec 4) (h : s.base + n.toNat ≤ Config.memSize) :
    Completes s (.opDXYN x y n) (s.afterDraw x y n)
  | opEX9E (x : RegNum) (h : s.keyIndex x ≤ 15) : Completes s (.opEX9E x) (s.skipIf (s.keyDown (s.keyIndex x)))
  | opEXA1 (x : RegNum) (h : s.keyIndex x ≤ 15) : Completes s (.opEXA1 x) (s.skipIf (!s.keyDown (s.keyIndex x)))
  | opFX07 (x : RegNum) : Completes s (.opFX07 x) (s.setV x s.dt).advance
  | opFX0A_begins (x : RegNum) (h : s.wait = false) : Completes s (.opFX0A x) s.beginWait
  | opFX0A_waits (x : RegNum) (h : s.wait = true) (hsame : s.key = s.klatch) : Completes s (.opFX0A x) s
  | opFX0A_ends (x : RegNum) (k : Nat) (ks : List Nat) (h : s.wait = true) (hchanged : changedKeys s.key s.klatch = k :: ks) :
    Completes s (.opFX0A x) ((s.setV x (BitVec.ofNat 8 k)).setWait false).advance
  | opFX15 (x : RegNum) : Completes s (.opFX15 x) (s.setDt (s.getV x)).advance
  | opFX18 (x : RegNum) : Completes s (.opFX18 x) (s.setSt (s.getV x)).advance
  | opFX1E (x : RegNum) : Completes s (.opFX1E x) (s.setI (s.indexPlus x)).advance
  | opFX29 (x : RegNum) : Completes s (.opFX29 x) (s.setI (s.glyphAddress x)).advance
  | opFX33 (x : RegNum) (h : s.base + 3 ≤ Config.memSize) :
    Completes s (.opFX33 x) (s.setMem (s.mem.writeBytes s.base (decimalDigits (s.getV x)))).advance
  | opFX55 (x : RegNum) (h : s.base + blockSize x ≤ Config.memSize) :
    Completes s (.opFX55 x) (s.setMem (s.mem.writeBytes s.base (s.firstRegs (blockSize x)))).advance
  | opFX65 (x : RegNum) (h : s.base + blockSize x ≤ Config.memSize) :
    Completes s (.opFX65 x) (s.setRegs (loadRegs s.mem s.base (blockSize x) s.v)).advance

/-- What an instruction answers: it completes in one of the ways of `Completes` or faults in one of those of `Faults`. -/
def Answers (i : Instr) (s : State) : Prop :=
  (∃ t, exec i s = .next t ∧ Completes s i t) ∨ ∃ f, exec i s = .fault f ∧ Faults s i f

section
variable {i : Instr} {s t : State}

theorem answers_of_next (h : exec i s = .next t) (ht : Completes s i t) : Answers i s := .inl ⟨t, h, ht⟩

/-- A checked access completes inside memory and faults past its end (20_memory.md R57). -/
theorem answers_of_guardAccess {c : BoundsCause} {n : Nat} (h : exec i s = guardAccess c n i s t)
    (hin : s.base + n ≤ Config.memSize → Completes s i t)
    (hpast : Config.memSize < s.base + n → Faults s i (.outOfBounds c pastTheEnd (encode i) s.pc)) : Answers i s := by
  rcases Nat.lt_or_ge Config.memSize (s.base + n) with hn | hn
  · exact .inr ⟨_, h.trans (guardAccess_fault.2 ⟨hn, rfl⟩), hpast hn⟩
  · exact .inl ⟨_, h.trans (guardAccess_next.2 ⟨hn, rfl⟩), hin hn⟩

/-- A key skip completes on a key index of at most 15 and faults on one above (44_keypad_timers.md R176). -/
theorem answers_of_keySkip {k : Nat} {c : Bool} (h : exec i s = keySkip i k c s)
    (hkey : k ≤ 15 → Completes s i (s.skipIf c))
    (habove : 15 < k → Faults s i (.outOfBounds .keyIndex k (encode i) s.pc)) : Answers i s := by
  rcases Nat.lt_or_ge 15 k with hk | hk
  · exact .inr ⟨_, h.trans (keySkip_fault.2 ⟨hk, rfl⟩), habove hk⟩
  · exact .inl ⟨_, h.trans (keySkip_next.2 ⟨hk, rfl⟩), hkey hk⟩
end

theorem answers_op00EE (s : State) : Answers .op00EE s := by
  rcases exec00EE_cases s with ⟨hempty, h⟩ | ⟨older, newest, hstack, h⟩
  · exact .inr ⟨_, h, .op00EE hempty⟩
  · exact .inl ⟨_, h, .op00EE older newest hstack⟩

theorem answers_op2NNN (nnn : Addr) (s : State) : Answers (.op2NNN nnn) s := by
  rcases exec2NNN_cases nnn s with ⟨hfull, h⟩ | ⟨hroom, h⟩
  · exact .inr ⟨_, h, .op2NNN nnn hfull⟩
  · exact .inl ⟨_, h, .op2NNN nnn hroom⟩

theorem answers_opFX0A (x : RegNum) (s : State) : Answers (.opFX0A x) s := by
  rcases execFX0A_cases x s with ⟨hw, h⟩ | ⟨hw, hnil, h⟩ | ⟨k, ks, hw, hcons, h⟩
  · exact .inl ⟨_, h, .opFX0A_begins x hw⟩
  · exact .inl ⟨_, h, .opFX0A_waits x hw (changedKeys_eq_nil.1 hnil)⟩
  · exact .inl ⟨_, h, .opFX0A_ends x k ks hw hcons⟩

/-- Every instruction answers in one of the ways listed; the later proofs split on these and do not unfold a meaning. -/
theorem answers (i : Instr) (s : State) : Answers i s := by
  cases i with
  | op00E0 => exact answers_of_next (exec_op00E0 s) .op00E0
  | op00EE => exact answers_op00EE s
  | op1NNN nnn => exact answers_of_next (exec_op1NNN nnn s) (.op1NNN nnn)
  | op2NNN nnn => exact answers_op2NNN nnn s
  | op3XNN x nn => exact answers_of_next (exec_op3XNN x nn s) (.op3XNN x nn)
  | op4XNN x nn => exact answers_of_next (exec_op4XNN x nn s) (.op4XNN x nn)
  | op5XY0 x y => exact answers_of_next (exec_op5XY0 x y s) (.op5XY0 x y)
  | op6XNN x nn => exact answers_of_next (exec_op6XNN x nn s) (.op6XNN x nn)
  | op7XNN x nn => exact answers_of_next (exec_op7XNN x nn s) (.op7XNN x nn)
  | op8XY0 x y => exact answers_of_next (exec_op8XY0 x y s) (.op8XY0 x y)
  | op8XY1 x y => exact answers_of_next (exec_op8XY1 x y s) (.op8XY1 x y)
  | op8XY2 x y => exact answers_of_next (exec_op8XY2 x y s) (.op8XY2 x y)
  | op8XY3 x y => exact answers_of_next (exec_op8XY3 x y s) (.op8XY3 x y)
  | op8XY4 x y => exact answers_of_next (exec_op8XY4 x y s) (.op8XY4 x y)
  | op8XY5 x y => exact answers_of_next (exec_op8XY5 x y s) (.op8XY5 x y)
  | op8XY6 x y => exact answers_of_next (exec_op8XY6 x y s) (.op8XY6 x y)
  | op8XYE x y => exact answers_of_next (exec_op8XYE x y s) (.op8XYE x y)
  | op9XY0 x y => exact answers_of_next (exec_op9XY0 x y s) (.op9XY0 x y)
  | opANNN nnn => exact answers_of_next (exec_opANNN nnn s) (.opANNN nnn)
  | opBNNN nnn => exact answers_of_next (exec_opBNNN nnn s) (.opBNNN nnn)
  | opCXNN x nn => exact answers_of_next (exec_opCXNN x nn s) (.opCXNN x nn)
  | opDXYN x y n => exact answers_of_guardAccess (exec_opDXYN x y n s) (.opDXYN x y n) (.opDXYN x y n)
  | opEX9E x => exact answers_of_keySkip (exec_opEX9E x s) (.opEX9E x) (.opEX9E x)
  | opEXA1 x => exact answers_of_keySkip (exec_opEXA1 x s) (.opEXA1 x) (.opEXA1 x)
  | opFX07 x => exact answers_of_next (exec_opFX07 x s) (.opFX07 x)
  | opFX0A x => exact answers_opFX0A x s
  | opFX15 x => exact answers_of_next (exec_opFX15 x s) (.opFX15 x)
  | opFX18 x => exact answers_of_next (exec_opFX18 x s) (.opFX18 x)
  | opFX1E x => exact answers_of_next (exec_opFX1E x s) (.opFX1E x)
  | opFX29 x => exact answers_of_next (exec_opFX29 x s) (.opFX29 x)
  | opFX33 x => exact answers_of_guardAccess (exec_opFX33 x s) (.opFX33 x) (.opFX33 x)
  | opFX55 x => exact answers_of_guardAccess (exec_opFX55 x s) (.opFX55 x) (.opFX55 x)
  | opFX65 x => exact answers_of_guardAccess (exec_opFX65 x s) (.opFX65 x) (.opFX65 x)

theorem completes_of_exec {i : Instr} {s t : State} (h : exec i s = .next t) : Completes s i t := by
  rcases answers i s with ⟨t', ht', hc⟩ | ⟨f, hf, -⟩
  · cases h.symm.trans ht'
    exact hc
  · cases h.symm.trans hf

theorem exec_of_faults {i : Instr} {s : State} {f : Fault} (h : Faults s i f) : exec i s = .fault f := by
  cases h with
  | op00EE h => exact exec00EE_of_empty h
  | op2NNN nnn h => exact exec_op2NNN_of_full h nnn
  | opDXYN x y n h => exact (exec_opDXYN x y n s).trans (guardAccess_fault.2 ⟨h, rfl⟩)
  | opEX9E x h => exact (exec_opEX9E x s).trans (keySkip_fault.2 ⟨h, rfl⟩)
  | opEXA1 x h => exact (exec_opEXA1 x s).trans (keySkip_fault.2 ⟨h, rfl⟩)
  | opFX33 x h => exact (exec_opFX33 x s).trans (guardAccess_fault.2 ⟨h, rfl⟩)
  | opFX55 x h => exact (exec_opFX55 x s).trans (guardAccess_fault.2 ⟨h, rfl⟩)
  | opFX65 x h => exact (exec_opFX65 x s).trans (guardAccess_fault.2 ⟨h, rfl⟩)

theorem exec_fault_iff {i : Instr} {s : State} {f : Fault} : exec i s = .fault f ↔ Faults s i f := by
  refine ⟨fun h => ?_, exec_of_faults⟩
  rcases answers i s with ⟨t, ht, -⟩ | ⟨f', hf', hfault⟩
  · cases h.symm.trans ht
  · cases h.symm.trans hf'
    exact hfault

end Sys2Proof.Machine
end

section
/-! ## Faults (60_exceptions.md R200 to R212): nothing is refused, which fault is whose, and what a faulting step reports -/

namespace Sys2Proof.Machine

theorem exec_not_refused (i : Instr) (s : State) (r : Refusal) : exec i s ≠ .refused r := by
  intro h
  rcases answers i s with ⟨t, ht, -⟩ | ⟨f, hf, -⟩
  · cases h.symm.trans ht
  · cases h.symm.trans hf

/-- Settles O34: a step faults in its fetch or answers as the fetched instruction does. -/
theorem nothingIsRefused : Obligations.NothingIsRefused := by
  refine ⟨exec_not_refused, fun s r h => ?_⟩
  cases hfetch : s.fetchInstr with
  | ok i => exact exec_not_refused i s r ((step_of_fetchInstr hfetch).symm.trans h)
  | error f => cases h.symm.trans (step_fault.2 (.inl hfetch))

/-- Settles O35: one case of `Faults` per instruction and fault. -/
theorem eachInstructionHasItsOneFault : Obligations.EachInstructionHasItsOneFault := by
  intro i s f hexec
  cases exec_fault_iff.1 hexec with
  | op00EE h => exact .inl ⟨rfl, h, rfl⟩
  | op2NNN nnn h => exact .inr (.inl ⟨nnn, rfl, h, rfl⟩)
  | opFX33 x h => exact .inr (.inr (.inl ⟨x, rfl, Nat.lt_of_succ_lt_succ h, rfl⟩))
  | opFX55 x h => exact .inr (.inr (.inr (.inl ⟨x, rfl, Nat.lt_of_succ_lt_succ h, rfl⟩)))
  | opFX65 x h => exact .inr (.inr (.inr (.inr (.inl ⟨x, rfl, Nat.lt_of_succ_lt_succ h, rfl⟩))))
  | opDXYN x y n h =>
    exact .inr (.inr (.inr (.inr (.inr (.inl ⟨x, y, n, rfl, Nat.le_sub_one_of_lt h, rfl⟩)))))
  | opEX9E x h => exact .inr (.inr (.inr (.inr (.inr (.inr ⟨x, .inl rfl, h, rfl⟩)))))
  | opEXA1 x h => exact .inr (.inr (.inr (.inr (.inr (.inr ⟨x, .inr rfl, h, rfl⟩)))))

/-- The report of an instruction's fault carries the instruction's word and PC (60_exceptions.md R228). -/
theorem Faults.report {s : State} {i : Instr} {f : Fault} (h : Faults s i f) :
    f.report.code ∈ [1, 2, 3, 5] ∧ f.report.pc = some s.pc ∧ f.report.opcode = some (encode i) := by
  cases h <;> exact ⟨by simp [Fault.report], rfl, rfl⟩

/-- Settles O36: the fetched instruction encodes to the word fetched, so its fault reports that word. -/
theorem stepFaultReport : Obligations.StepFaultReport := by
  intro s f h
  have hafter : ∀ font, stateAfter font .step s = s := fun font => stateAfter_of_fault (font := font) (op := .step) h
  rcases step_fault.1 h with hfetch | ⟨i, hfetch, hexec⟩
  · rcases State.fetchInstr_error.1 hfetch with ⟨hpc, rfl⟩ | ⟨hpc, -, rfl⟩
    · exact ⟨by simp [Fault.report], rfl, by rw [if_neg (not_le.2 hpc)]; rfl, hafter⟩
    · exact ⟨by simp [Fault.report], rfl, by rw [if_pos hpc]; rfl, hafter⟩
  · obtain ⟨hpc, hdec⟩ := State.fetchInstr_ok.1 hfetch
    obtain ⟨hcode, hreportPc, hopcode⟩ := (exec_fault_iff.1 hexec).report
    exact ⟨hcode, hreportPc, by rw [if_pos hpc, hopcode, encode_of_decodeWord hdec], hafter⟩

/-! ### A fault repeats (60_exceptions.md R212) -/

/-- Two states agree in every element that a fault is raised on. -/
structure AgreeOnFaults (s t : State) : Prop where
  mem : t.mem = s.mem
  v : t.v = s.v
  i : t.i = s.i
  pc : t.pc = s.pc
  stack : t.stack = s.stack

section
variable {s t : State} {f : Fault}

theorem AgreeOnFaults.base (h : AgreeOnFaults s t) : t.base = s.base := congrArg BitVec.toNat h.i

theorem AgreeOnFaults.keyIndex (h : AgreeOnFaults s t) (x : RegNum) : t.keyIndex x = s.keyIndex x :=
  congrArg BitVec.toNat (State.getV_congr h.v x)

theorem AgreeOnFaults.faults (h : AgreeOnFaults s t) {i : Instr} (hf : Faults s i f) : Faults t i f := by
  cases hf with
  | op00EE hempty => exact h.pc ▸ .op00EE (h.stack.trans hempty)
  | op2NNN nnn hfull => exact h.pc ▸ .op2NNN nnn (hfull.trans_eq (congrArg List.length h.stack.symm))
  | opDXYN x y n hpast => exact h.pc ▸ .opDXYN x y n (h.base.symm ▸ hpast)
  | opEX9E x hk => exact h.pc ▸ h.keyIndex x ▸ .opEX9E x (h.keyIndex x ▸ hk)
  | opEXA1 x hk => exact h.pc ▸ h.keyIndex x ▸ .opEXA1 x (h.keyIndex x ▸ hk)
  | opFX33 x hpast => exact h.pc ▸ .opFX33 x (h.base.symm ▸ hpast)
  | opFX55 x hpast => exact h.pc ▸ .opFX55 x (h.base.symm ▸ hpast)
  | opFX65 x hpast => exact h.pc ▸ .opFX65 x (h.base.symm ▸ hpast)

theorem AgreeOnFaults.step_fault (h : AgreeOnFaults s t) (hs : step s = .fault f) : step t = .fault f := by
  have hfetch : t.fetchInstr = s.fetchInstr := State.fetchInstr_congr h.mem h.pc
  rcases Machine.step_fault.1 hs with herror | ⟨i, hok, hexec⟩
  · exact Machine.step_fault.2 (.inl (hfetch.trans herror))
  · exact Machine.step_fault.2 (.inr ⟨i, hfetch.trans hok, exec_of_faults (h.faults (exec_fault_iff.1 hexec))⟩)

/-- After a faulting step, an operation other than reset and load touches nothing that the fault is raised on. -/
theorem agreeOnFaults_stateAfter {op : HostOp} (font : FontTable) (hs : step s = .fault f) (hreset : op ≠ .reset)
    (hload : ∀ bytes, op ≠ .loadProgram bytes) : AgreeOnFaults s (stateAfter font op s) := by
  cases op with
  | reset => exact absurd rfl hreset
  | loadProgram bytes => exact absurd rfl (hload bytes)
  | step =>
    rw [stateAfter_of_fault (font := font) (op := .step) hs]
    exact ⟨rfl, rfl, rfl, rfl, rfl⟩
  | _ => exact ⟨rfl, rfl, rfl, rfl, rfl⟩
end

/-- Settles O37: by induction on the operations, each of which leaves a state with the same fault. -/
theorem faultRepeatsUntilResetOrLoad : Obligations.FaultRepeatsUntilResetOrLoad := by
  intro font s f ops hs hops
  induction ops generalizing s with
  | nil => exact hs
  | cons op ops ih =>
    obtain ⟨⟨hreset, hload⟩, hrest⟩ := List.forall_mem_cons.1 hops
    rw [runOps_cons]
    exact ih _ ((agreeOnFaults_stateAfter font hs hreset hload).step_fault hs) hrest

end Sys2Proof.Machine
end

section
/-! ## Writers (10_state.md R23 to R35): which instructions can change which element -/

namespace Sys2Proof.Machine

section
variable {s t : State} {i : Instr}

/-! ### Control elements -/

theorem Completes.key_eq (h : Completes s i t) : t.key = s.key := by cases h <;> simp

theorem Completes.dt_writer (h : Completes s i t) (hne : t.dt ≠ s.dt) : ∃ x, i = .opFX15 x := by
  cases h with
  | opFX15 x => exact ⟨x, rfl⟩
  | _ => simp at hne

theorem Completes.st_writer (h : Completes s i t) (hne : t.st ≠ s.st) : ∃ x, i = .opFX18 x := by
  cases h with
  | opFX18 x => exact ⟨x, rfl⟩
  | _ => simp at hne

/-- REDRAW is set by the two display instructions and otherwise kept (10_state.md R34). -/
theorem Completes.redraw_cases (h : Completes s i t) :
    (t.redraw = true ∧ (i = .op00E0 ∨ ∃ x y n, i = .opDXYN x y n)) ∨ t.redraw = s.redraw := by
  cases h with
  | op00E0 => exact .inl ⟨rfl, .inl rfl⟩
  | opDXYN x y n => exact .inl ⟨rfl, .inr ⟨x, y, n, rfl⟩⟩
  | _ => exact .inr (by simp)

theorem Completes.wait_writer (h : Completes s i t) (hne : t.wait ≠ s.wait ∨ t.klatch ≠ s.klatch) : ∃ x, i = .opFX0A x := by
  cases h with
  | opFX0A_begins x | opFX0A_waits x | opFX0A_ends x => exact ⟨x, rfl⟩
  | _ => simp at hne

/-! ### Storage -/

theorem Completes.i_writer (h : Completes s i t) (hne : t.i ≠ s.i) :
    (∃ nnn, i = .opANNN nnn) ∨ (∃ x, i = .opFX1E x) ∨ ∃ x, i = .opFX29 x := by
  cases h with
  | opANNN nnn => exact .inl ⟨nnn, rfl⟩
  | opFX1E x => exact .inr (.inl ⟨x, rfl⟩)
  | opFX29 x => exact .inr (.inr ⟨x, rfl⟩)
  | _ => simp at hne

theorem Completes.stack_writer (h : Completes s i t) (hne : t.stack ≠ s.stack) : i = .op00EE ∨ ∃ nnn, i = .op2NNN nnn := by
  cases h with
  | op00EE => exact .inl rfl
  | op2NNN nnn => exact .inr ⟨nnn, rfl⟩
  | _ => simp at hne

theorem Completes.mem_writer (h : Completes s i t) (hne : t.mem ≠ s.mem) : (∃ x, i = .opFX33 x) ∨ ∃ x, i = .opFX55 x := by
  cases h with
  | opFX33 x => exact .inl ⟨x, rfl⟩
  | opFX55 x => exact .inr ⟨x, rfl⟩
  | _ => simp at hne

theorem Completes.fb_writer (h : Completes s i t) (hne : t.fb ≠ s.fb) : i = .op00E0 ∨ ∃ x y n, i = .opDXYN x y n := by
  cases h with
  | op00E0 => exact .inl rfl
  | opDXYN x y n => exact .inr ⟨x, y, n, rfl⟩
  | _ => simp at hne
end

/-- Settles O38: element by element over the ways to complete. -/
theorem controlElementsHaveOnlyTheirWriters : Obligations.ControlElementsHaveOnlyTheirWriters := by
  intro i s t hexec
  have h := completes_of_exec hexec
  refine ⟨h.key_eq, h.dt_writer, h.st_writer, fun hset => ?kept, fun hne => ?changed, h.wait_writer⟩
  case kept => exact h.redraw_cases.elim (fun hwrite => hwrite.1) (fun hkeep => hkeep.trans hset)
  case changed => exact (h.redraw_cases.resolve_right hne).2

/-- Settles O39: element by element over the ways to complete. -/
theorem storageHasOnlyItsWriters : Obligations.StorageHasOnlyItsWriters := by
  intro i s t hexec
  have h := completes_of_exec hexec
  exact ⟨h.i_writer, h.stack_writer, h.mem_writer, h.fb_writer⟩

/-! ### VF -/

/-- A register that a write to V[x] changed is V[x]. -/
theorem State.eq_of_getV_setV_ne {s : State} {x y : RegNum} {b : Byte} (h : (s.setV x b).getV y ≠ s.getV y) : y = x := by
  by_contra hne
  exact h (s.getV_setV_ne b hne)

/-- A block load that changed VF went up to it. -/
theorem eq_vf_of_getV_loadRegs_ne {s : State} {m : Memory} {a : Nat} {x : RegNum}
    (h : (s.setRegs (loadRegs m a (blockSize x) s.v)).getV vf ≠ s.getV vf) : x = vf := by
  have hx : x.toNat < 16 := x.isLt
  by_contra hne
  have hne : x.toNat ≠ 15 := fun e => hne (BitVec.eq_of_toNat_eq e)
  refine h ((s.getV_setRegs_loadRegs m a (blockSize x) vf).trans (if_neg ?_))
  show ¬ 15 < x.toNat + 1
  omega

/-- Settles O40: the five flag instructions are listed whatever X is; any other change of VF is a write to V[X]. -/
theorem vfHasOnlyItsWriters : Obligations.VfHasOnlyItsWriters := by
  intro i s t hexec hne
  cases completes_of_exec hexec with
  | op8XY4 x y => exact .inl ⟨x, y, .inl rfl⟩
  | op8XY5 x y => exact .inl ⟨x, y, .inr (.inl rfl)⟩
  | op8XY6 x y => exact .inl ⟨x, y, .inr (.inr (.inl rfl))⟩
  | op8XYE x y => exact .inl ⟨x, y, .inr (.inr (.inr rfl))⟩
  | opDXYN x y n => exact .inr (.inl ⟨x, y, n, rfl⟩)
  | op6XNN x nn =>
    cases State.eq_of_getV_setV_ne hne
    exact .inr (.inr (.inl ⟨nn, .inl rfl⟩))
  | op7XNN x nn =>
    cases State.eq_of_getV_setV_ne hne
    exact .inr (.inr (.inl ⟨nn, .inr (.inl rfl)⟩))
  | opCXNN x nn =>
    cases State.eq_of_getV_setV_ne hne
    exact .inr (.inr (.inl ⟨nn, .inr (.inr rfl)⟩))
  | op8XY0 x y =>
    cases State.eq_of_getV_setV_ne hne
    exact .inr (.inr (.inr (.inl ⟨y, .inl rfl⟩)))
  | op8XY1 x y =>
    cases State.eq_of_getV_setV_ne hne
    exact .inr (.inr (.inr (.inl ⟨y, .inr (.inl rfl)⟩)))
  | op8XY2 x y =>
    cases State.eq_of_getV_setV_ne hne
    exact .inr (.inr (.inr (.inl ⟨y, .inr (.inr (.inl rfl))⟩)))
  | op8XY3 x y =>
    cases State.eq_of_getV_setV_ne hne
    exact .inr (.inr (.inr (.inl ⟨y, .inr (.inr (.inr rfl))⟩)))
  | opFX07 x =>
    cases State.eq_of_getV_setV_ne hne
    exact .inr (.inr (.inr (.inr (.inl rfl))))
  | opFX0A_ends x k =>
    cases State.eq_of_getV_setV_ne hne
    exact .inr (.inr (.inr (.inr (.inr (.inl rfl)))))
  | opFX65 x =>
    cases eq_vf_of_getV_loadRegs_ne hne
    exact .inr (.inr (.inr (.inr (.inr (.inr rfl)))))
  | _ => simp at hne

end Sys2Proof.Machine
end

section
/-! ## The invariant (10_state.md R36): at reset and load, kept by every step and every operation, true of reachable states -/

namespace Sys2Proof.Machine

section
variable {s t : State} {i : Instr}

/-! ### What a completed instruction keeps, part by part -/

/-- Both stores write inside memory, so the canonical form is kept (20_memory.md R50). -/
theorem Completes.mem_wf (h : Completes s i t) (hwf : s.mem.wf = true) : t.mem.wf = true := by
  cases h with
  | opFX33 x hfit => exact Memory.wf_writeBytes hwf hfit
  | opFX55 x hfit => exact Memory.wf_writeBytes hwf ((s.length_firstRegs_blockSize x).symm ▸ hfit)
  | _ => simpa using hwf

/-- A call pushes onto at most 15 entries, and a return pops (10_state.md R27). -/
theorem Completes.sp_le (h : Completes s i t) (hsp : s.sp ≤ 16) : t.sp ≤ 16 := by
  cases h with
  | op00EE older newest hstack =>
    rw [State.sp_of_stack_concat hstack] at hsp
    exact Nat.le_of_succ_le hsp
  | op2NNN nnn hroom =>
    show (s.stack ++ [s.pc]).length ≤ 16
    rw [List.length_append]
    exact hroom
  | _ => simpa [State.sp] using hsp

/-- The one value pushed is the PC of an instruction that was fetched (10_state.md R27). -/
theorem Completes.saved_le (h : Completes s i t) (hpc : s.pc.toNat ≤ 0xFFE) (hsaved : ∀ a ∈ s.stack, a.toNat ≤ 0xFFE) :
    ∀ a ∈ t.stack, a.toNat ≤ 0xFFE := by
  cases h with
  | op00EE older newest hstack => exact fun a ha => hsaved a (hstack ▸ List.mem_append_left _ ha)
  | op2NNN nnn =>
    intro a ha
    rcases List.mem_append.1 ha with hold | hnew
    · exact hsaved a hold
    · exact List.mem_singleton.1 hnew ▸ hpc
  | _ => simpa using hsaved

/-- Two or four past an address of at most 0xFFE. -/
theorem toNat_add_le {a : PcWord} (ha : a.toNat ≤ 0xFFE) (c : Bool) :
    (a + if c then 4 else 2).toNat ≤ 0x10FE := by
  cases c <;> simp only [Bool.false_eq_true, if_true, if_false] <;> bv_omega

/-- The largest PC is the largest NNN plus the largest V0 (10_state.md R25). -/
theorem Completes.pc_le (h : Completes s i t) (hpc : s.pc.toNat ≤ 0xFFE) (hsaved : ∀ a ∈ s.stack, a.toNat ≤ 0xFFE) :
    t.pc.toNat ≤ 0x10FE := by
  have hskip (c : Bool) : (s.skipIf c).pc.toNat ≤ 0x10FE := s.skipIf_pc c ▸ toNat_add_le hpc c
  have hjump (nnn : Addr) : (jumpTarget nnn).toNat ≤ 0x10FE := by
    have hnnn : nnn.toNat < 4096 := nnn.isLt
    rw [toNat_jumpTarget]
    omega
  cases h with
  | op1NNN nnn | op2NNN nnn => exact hjump nnn
  | opBNNN nnn =>
    have hnnn : nnn.toNat < 4096 := nnn.isLt
    have hv : (s.getV 0).toNat < 256 := (s.getV 0).isLt
    rw [State.setPc_pc, State.toNat_offsetTarget]
    omega
  | op00EE older newest hstack => exact toNat_add_le (hsaved newest (by simp [hstack])) false
  | op3XNN | op4XNN | op5XY0 | op9XY0 | opEX9E | opEXA1 => exact hskip _
  | opFX0A_begins | opFX0A_waits => exact hpc.trans (by decide)
  | _ => exact toNat_add_le hpc false

/-- An FX0A after which the machine waits has changed neither memory nor PC (44_keypad_timers.md R172). -/
theorem Completes.same_place_of_waiting {x : RegNum} (h : Completes s (.opFX0A x) t) (hw : t.wait = true) :
    t.mem = s.mem ∧ t.pc = s.pc := by
  cases h with
  | opFX0A_begins | opFX0A_waits => exact ⟨rfl, rfl⟩
  | opFX0A_ends => exact absurd hw Bool.false_ne_true

/-- The machine waits only at an FX0A: no other instruction runs while it waits, and no other begins a wait. -/
theorem Completes.waiting (h : Completes s i t) (hfetch : s.fetchInstr = .ok i) (hs : Inv s) (hw : t.wait = true) :
    t.pc.toNat ≤ 0xFFE ∧ ∃ x, decodeWord t.wordAtPc = some (.opFX0A x) := by
  obtain ⟨hpc, hdec⟩ := State.fetchInstr_ok.1 hfetch
  obtain ⟨x, rfl⟩ : ∃ x, i = .opFX0A x := by
    by_cases hsame : t.wait = s.wait
    · obtain ⟨-, x, hx⟩ := hs.waiting (hsame.symm.trans hw)
      exact ⟨x, Option.some.inj (hdec.symm.trans hx)⟩
    · exact h.wait_writer (.inl hsame)
  obtain ⟨hmem, hpc'⟩ := h.same_place_of_waiting hw
  exact ⟨hpc'.symm ▸ hpc, x, (State.wordAtPc_congr hmem hpc').symm ▸ hdec⟩

/-! ### Steps and operations -/

theorem inv_of_step (hs : Inv s) (h : step s = .next t) : Inv t := by
  obtain ⟨i, hfetch, hexec⟩ := step_next.1 h
  obtain ⟨hpc, -⟩ := State.fetchInstr_ok.1 hfetch
  have hc := completes_of_exec hexec
  exact ⟨hc.mem_wf hs.memory, hc.sp_le hs.depth, hc.saved_le hpc hs.saved, hc.pc_le hpc hs.saved,
    hc.waiting hfetch hs⟩

/-- The invariant speaks of memory, the stack, PC and WAIT only. -/
theorem inv_congr (hs : Inv s) (hmem : t.mem = s.mem) (hstack : t.stack = s.stack) (hpc : t.pc = s.pc)
    (hwait : t.wait = s.wait) : Inv t where
  memory := hmem ▸ hs.memory
  depth := (congrArg List.length hstack).trans_le hs.depth
  saved := hstack ▸ hs.saved
  pcRange := hpc ▸ hs.pcRange
  waiting hw := by
    rw [State.wordAtPc_congr hmem hpc, hpc]
    exact hs.waiting (hwait.symm.trans hw)

/-- A state at the entry point with nothing called and nothing awaited meets the invariant. -/
theorem inv_of_entry (hwf : s.mem.wf = true) (hpc : s.pc = 0x200) (hstack : s.stack = []) (hwait : s.wait = false) :
    Inv s where
  memory := hwf
  depth := by simp [State.sp, hstack]
  saved := by simp [hstack]
  pcRange := by simp [hpc]
  waiting hw := absurd (hwait.symm.trans hw) Bool.false_ne_true
end

theorem inv_hostReset (font : FontTable) (s : State) : Inv (hostReset font s) :=
  inv_of_entry (State.wf_resetWith font) rfl rfl rfl

theorem inv_loadedState {font : FontTable} {bytes : List Byte} (h : bytes.length ≤ Config.progMax) (s : State) :
    Inv (loadedState font bytes s) :=
  inv_of_entry (Memory.wf_writeBytes (State.wf_resetWith font) (image_fits_memory h)) rfl rfl rfl

/-- An operation that completes keeps the invariant; the reset and the load establish it. -/
theorem inv_of_perform {font : FontTable} {op : HostOp} {s t : State} (hs : Inv s) (h : perform font op s = .next t) :
    Inv t := by
  cases op with
  | step => exact inv_of_step hs h
  | loadProgram bytes =>
    obtain ⟨hfits, rfl⟩ := perform_loadProgram_next.1 h
    exact inv_loadedState hfits s
  | reset =>
    cases h
    exact inv_hostReset font s
  | tick | keyWrite | redrawClear | fbRead | redrawRead | snapshotRead =>
    cases h
    exact inv_congr hs rfl rfl rfl rfl

theorem inv_stateAfter (font : FontTable) (op : HostOp) {s : State} (hs : Inv s) : Inv (stateAfter font op s) := by
  cases h : perform font op s with
  | next t => exact stateAfter_of_next h ▸ inv_of_perform hs h
  | fault f => exact (stateAfter_of_fault h).symm ▸ hs
  | refused r =>
    have hsame : stateAfter font op s = s := by simp only [stateAfter, h]
    exact hsame.symm ▸ hs

theorem inv_runOps (font : FontTable) (ops : List HostOp) {s : State} (hs : Inv s) : Inv (runOps font ops s) := by
  induction ops generalizing s with
  | nil => exact hs
  | cons op ops ih => exact ih (inv_stateAfter font op hs)

theorem inv_of_initial {font : FontTable} {s : State} (h : Initial font s) : Inv s := by
  cases h with
  | reset s => exact inv_hostReset font s
  | load bytes s t hload =>
    obtain ⟨hfits, rfl⟩ := perform_loadProgram_next.1 hload
    exact inv_loadedState hfits s

/-- Settles O41: part by part over the ways the fetched instruction can complete. -/
theorem stepKeepsTheInvariant : Obligations.StepKeepsTheInvariant := fun _ _ => inv_of_step

/-- Settles O42: both are at the entry point, and reset memory is canonical for every FONT. -/
theorem resetMeetsTheInvariant : Obligations.ResetMeetsTheInvariant :=
  ⟨inv_of_entry Memory.wf_reset rfl rfl rfl, fun font => inv_of_entry (State.wf_resetWith font) rfl rfl rfl⟩

/-- Settles O43: an operation that faults leaves the state as it was. -/
theorem everyOperationKeepsTheInvariant : Obligations.EveryOperationKeepsTheInvariant :=
  fun font op _ => inv_stateAfter font op

/-- Settles O44: by induction on the operations, from an initial state. -/
theorem reachableStatesMeetTheInvariant : Obligations.ReachableStatesMeetTheInvariant := by
  rintro font s ⟨s₀, ops, hinit, rfl⟩
  exact inv_runOps font ops (inv_of_initial hinit)

end Sys2Proof.Machine
end
